-- ==== Sys2Proof/Word.lean ====
section
/-! DEFINITION. The two widths of the machine (00_scope.md R6: data 8 bits, addresses 16 bits). -/

namespace Sys2Proof

/-- A data value: 8 bits (R6, R148). -/
abbrev Byte := BitVec 8

/-- An address or program counter value: 16 bits (R6, R16). -/
abbrev Word := BitVec 16

end Sys2Proof
end

