-- ==== Sys2Proof/Machine/Bits.lean ====
section
/-! DEFINITION. Byte order, zero and sign extension (00_scope.md section 4, 20_memory.md R43). -/

namespace Sys2Proof

/-- `hi(v) = v[15:8]`. -/
def hi (w : Word) : Byte := BitVec.ofNat 8 (w.toNat / 256)

/-- `lo(v) = v[7:0]`. -/
def lo (w : Word) : Byte := BitVec.ofNat 8 w.toNat

/-- `{h, l} = h * 256 + l`. -/
def join (h l : Byte) : Word := BitVec.ofNat 16 (h.toNat * 256 + l.toNat)

/-- `zext_16(v)`. -/
def zext (b : Byte) : Word := b.setWidth 16

/-- `sext_8(v)` as a 16-bit number, for sums taken modulo 65536. -/
def sext (b : Byte) : Word := b.signExtend 16

/-- `b ? 1 : 0` for a flag written into arithmetic. -/
def bitNat (b : Bool) : Nat := if b then 1 else 0

end Sys2Proof
end

