-- ==== Sys2Proof/Config.lean ====
section
/-! DEFINITION. The parameters of 00_scope.md R6 as plain data, and the free answers of the devices behind the bus. -/

namespace Sys2Proof

/-- The two buses the spec specifies: the flat test bus of R62 and the reference bus of R52 to R60.
DESIGN CHOICE, log entry 19: 92_eei_decisions.md D2 leaves the parameter open to any bus with the contract of R40, and no state
of this model has another bus; unsafe for a claim about every state that is read as one about every bus. -/
inductive BusKind where
  | flat
  | reference
deriving DecidableEq, Repr

/-- What answers in the cartridge window of the reference bus (R56: "The mapper is a parameter").
DESIGN CHOICE, log entry 7: `ram` stores what is written, `rom` answers its bytes and absorbs writes, both read the stub
value 0 where nothing is listed (R40, R56). `external` is any mapper at all: its answers are free values (R48). -/
inductive CartridgeKind where
  | ram
  | rom
  | external
deriving DecidableEq, Repr

/-- The implementation parameters of R6. No step writes them; a claim about every state is a claim about every choice of them, the
bus and the cartridge in the range of log entries 7 and 19 (DESIGN CHOICE, safe, log entry 2). -/
structure Params where
  /-- `A_RESET` (D6). -/
  aReset : Byte
  /-- `X_RESET` (D6). -/
  xReset : Byte
  /-- `Y_RESET` (D6). -/
  yReset : Byte
  /-- `P_RESET`, an 8-bit value with bit 2 = 1 (D5). -/
  pReset : Byte
  /-- `INT_CYCLES`, a positive natural number (D15). -/
  intCycles : Nat
  /-- `IO_STUB_VALUE` (D30). -/
  ioStubValue : Byte
  /-- The addresses of the audio/IO window at which the I/O port stub of R60 answers; the spec gives none (log entry 8). -/
  ioPorts : List Word
  /-- Which bus the core is attached to (D2, range: DESIGN CHOICE, unsafe, log entry 19). -/
  bus : BusKind
  /-- What answers in the cartridge window of the reference bus (R56; kinds and default: DESIGN CHOICE, log entry 7). -/
  cartridge : CartridgeKind
deriving DecidableEq, Repr

/-- The defaults of R6, "what the test vectors of `95_test_vectors.md` use": A = X = Y = 0x00, P = 0x24, INT_CYCLES = 7,
IO_STUB_VALUE = 0, the flat test bus. DESIGN CHOICE, unsafe for claims about `State.reset` alone, log entries 3, 4.
R6, R56 and R60 give no default for the mapper and for the addresses of the I/O port: `.ram` and `[]` are the model's own
DESIGN CHOICE, log entries 7 and 8, safe for claims about `State.reset`, whose flat bus reads neither, and unsafe for claims
that take these values with the reference bus. -/
def Params.default : Params where
  aReset := 0x00
  xReset := 0x00
  yReset := 0x00
  pReset := 0x24
  intCycles := 7
  ioStubValue := 0x00
  ioPorts := []
  bus := .flat
  cartridge := .ram

/-- What R6 asks of the parameters: bit 2 of `P_RESET` is 1 and `INT_CYCLES` is positive. -/
def Params.wf (p : Params) : Bool := p.pReset.getLsbD 2 && decide (0 < p.intCycles)

/-- A port of a collaborator behind the bus: register `a & 7` of the picture unit (R53), register `a - 0x4000` of the
audio/IO unit (R54), or an address of an external mapper (R56). -/
inductive DevicePort where
  | picture (reg : BitVec 3)
  | audioIo (reg : BitVec 5)
  | cartridge (addr : Word)
deriving DecidableEq, Repr

/-- FREE VALUE (R48, D31, log entry 6): what a collaborator answers to the read that is transaction number `n` forwarded to
collaborators. It has no body: no proof can know a value of it. -/
opaque Config.deviceAnswer : Nat → DevicePort → Byte

end Sys2Proof
end

