-- ==== Sys2Proof/Syntax.lean ====
section
/-! DEFINITION. The instructions as syntax: the 56 operations, the 13 addressing modes, the dispatch table's descriptor, the
operand forms, and one constructor of `Instr` for each of the 151 rows of spec/opcode_table.json (30_encoding.md R74). -/

namespace Sys2Proof

/-- The 56 operations (R73, R80), one for each mnemonic of R74. -/
inductive Op where
  | adc | and | asl | bcc | bcs | beq | bit | bmi | bne | bpl | brk | bvc | bvs | clc | cld | cli | clv | cmp
  | cpx | cpy | dec | dex | dey | eor | inc | inx | iny | jmp | jsr | lda | ldx | ldy | lsr | nop | ora | pha
  | php | pla | plp | rol | ror | rti | rts | sbc | sec | sed | sei | sta | stx | sty | tax | tay | tsx | txa
  | txs | tya
deriving DecidableEq, Repr

/-- The 13 addressing modes (R80, R90), under the abbreviations of R71. -/
inductive Mode where
  | acc | imm | zp | zpx | zpy | abs | abx | aby | ind | izx | izy | rel | imp
deriving DecidableEq, Repr

/-- The instruction descriptor of R73 without the opcode value, which is the table's index; the operand byte length is a
function of the mode (R71, 90_conflicts.md C3). -/
structure Descriptor where
  op     : Op
  mode   : Mode
  /-- base cycle count -/
  cycles : Nat
  /-- the extra-cycle flag -/
  extra  : Bool
deriving DecidableEq, Repr

/-- An addressing mode with its operand bytes assembled (R72). -/
inductive Operand where
  | acc
  | imm (v : Byte)
  | zp (z : Byte)
  | zpx (z : Byte)
  | zpy (z : Byte)
  | abs (a : Word)
  | abx (a : Word)
  | aby (a : Word)
  | ind (a : Word)
  | izx (z : Byte)
  | izy (z : Byte)
  | rel (o : Byte)
  | imp
deriving DecidableEq, Repr

/-- The mode of an operand form. -/
def Operand.mode : Operand → Mode
  | .acc => .acc
  | .imm _ => .imm
  | .zp _ => .zp
  | .zpx _ => .zpx
  | .zpy _ => .zpy
  | .abs _ => .abs
  | .abx _ => .abx
  | .aby _ => .aby
  | .ind _ => .ind
  | .izx _ => .izx
  | .izy _ => .izy
  | .rel _ => .rel
  | .imp => .imp

/-- One constructor for each row of the opcode table (R74), its operand bytes assembled as R72 says. The name is the mnemonic
and the mode; a mnemonic with one row whose mode is Implied, Relative, or JSR's Absolute, has no suffix. -/
inductive Instr where
  | adcIzx (z : Byte)
  | adcZp (z : Byte)
  | adcImm (v : Byte)
  | adcAbs (a : Word)
  | adcIzy (z : Byte)
  | adcZpx (z : Byte)
  | adcAby (a : Word)
  | adcAbx (a : Word)
  | andIzx (z : Byte)
  | andZp (z : Byte)
  | andImm (v : Byte)
  | andAbs (a : Word)
  | andIzy (z : Byte)
  | andZpx (z : Byte)
  | andAby (a : Word)
  | andAbx (a : Word)
  | aslZp (z : Byte)
  | aslAcc
  | aslAbs (a : Word)
  | aslZpx (z : Byte)
  | aslAbx (a : Word)
  | bcc (o : Byte)
  | bcs (o : Byte)
  | beq (o : Byte)
  | bitZp (z : Byte)
  | bitAbs (a : Word)
  | bmi (o : Byte)
  | bne (o : Byte)
  | bpl (o : Byte)
  | brk
  | bvc (o : Byte)
  | bvs (o : Byte)
  | clc
  | cld
  | cli
  | clv
  | cmpIzx (z : Byte)
  | cmpZp (z : Byte)
  | cmpImm (v : Byte)
  | cmpAbs (a : Word)
  | cmpIzy (z : Byte)
  | cmpZpx (z : Byte)
  | cmpAby (a : Word)
  | cmpAbx (a : Word)
  | cpxImm (v : Byte)
  | cpxZp (z : Byte)
  | cpxAbs (a : Word)
  | cpyImm (v : Byte)
  | cpyZp (z : Byte)
  | cpyAbs (a : Word)
  | decZp (z : Byte)
  | decAbs (a : Word)
  | decZpx (z : Byte)
  | decAbx (a : Word)
  | dex
  | dey
  | eorIzx (z : Byte)
  | eorZp (z : Byte)
  | eorImm (v : Byte)
  | eorAbs (a : Word)
  | eorIzy (z : Byte)
  | eorZpx (z : Byte)
  | eorAby (a : Word)
  | eorAbx (a : Word)
  | incZp (z : Byte)
  | incAbs (a : Word)
  | incZpx (z : Byte)
  | incAbx (a : Word)
  | inx
  | iny
  | jmpAbs (a : Word)
  | jmpInd (a : Word)
  | jsr (a : Word)
  | ldaIzx (z : Byte)
  | ldaZp (z : Byte)
  | ldaImm (v : Byte)
  | ldaAbs (a : Word)
  | ldaIzy (z : Byte)
  | ldaZpx (z : Byte)
  | ldaAby (a : Word)
  | ldaAbx (a : Word)
  | ldxImm (v : Byte)
  | ldxZp (z : Byte)
  | ldxAbs (a : Word)
  | ldxZpy (z : Byte)
  | ldxAby (a : Word)
  | ldyImm (v : Byte)
  | ldyZp (z : Byte)
  | ldyAbs (a : Word)
  | ldyZpx (z : Byte)
  | ldyAbx (a : Word)
  | lsrZp (z : Byte)
  | lsrAcc
  | lsrAbs (a : Word)
  | lsrZpx (z : Byte)
  | lsrAbx (a : Word)
  | nop
  | oraIzx (z : Byte)
  | oraZp (z : Byte)
  | oraImm (v : Byte)
  | oraAbs (a : Word)
  | oraIzy (z : Byte)
  | oraZpx (z : Byte)
  | oraAby (a : Word)
  | oraAbx (a : Word)
  | pha
  | php
  | pla
  | plp
  | rolZp (z : Byte)
  | rolAcc
  | rolAbs (a : Word)
  | rolZpx (z : Byte)
  | rolAbx (a : Word)
  | rorZp (z : Byte)
  | rorAcc
  | rorAbs (a : Word)
  | rorZpx (z : Byte)
  | rorAbx (a : Word)
  | rti
  | rts
  | sbcIzx (z : Byte)
  | sbcZp (z : Byte)
  | sbcImm (v : Byte)
  | sbcAbs (a : Word)
  | sbcIzy (z : Byte)
  | sbcZpx (z : Byte)
  | sbcAby (a : Word)
  | sbcAbx (a : Word)
  | sec
  | sed
  | sei
  | staIzx (z : Byte)
  | staZp (z : Byte)
  | staAbs (a : Word)
  | staIzy (z : Byte)
  | staZpx (z : Byte)
  | staAby (a : Word)
  | staAbx (a : Word)
  | stxZp (z : Byte)
  | stxAbs (a : Word)
  | stxZpy (z : Byte)
  | styZp (z : Byte)
  | styAbs (a : Word)
  | styZpx (z : Byte)
  | tax
  | tay
  | tsx
  | txa
  | txs
  | tya
deriving DecidableEq, Repr

/-- The operation of an instruction (R73, R74). -/
def Instr.op : Instr → Op
  | .adcIzx _ => .adc
  | .adcZp _ => .adc
  | .adcImm _ => .adc
  | .adcAbs _ => .adc
  | .adcIzy _ => .adc
  | .adcZpx _ => .adc
  | .adcAby _ => .adc
  | .adcAbx _ => .adc
  | .andIzx _ => .and
  | .andZp _ => .and
  | .andImm _ => .and
  | .andAbs _ => .and
  | .andIzy _ => .and
  | .andZpx _ => .and
  | .andAby _ => .and
  | .andAbx _ => .and
  | .aslZp _ => .asl
  | .aslAcc => .asl
  | .aslAbs _ => .asl
  | .aslZpx _ => .asl
  | .aslAbx _ => .asl
  | .bcc _ => .bcc
  | .bcs _ => .bcs
  | .beq _ => .beq
  | .bitZp _ => .bit
  | .bitAbs _ => .bit
  | .bmi _ => .bmi
  | .bne _ => .bne
  | .bpl _ => .bpl
  | .brk => .brk
  | .bvc _ => .bvc
  | .bvs _ => .bvs
  | .clc => .clc
  | .cld => .cld
  | .cli => .cli
  | .clv => .clv
  | .cmpIzx _ => .cmp
  | .cmpZp _ => .cmp
  | .cmpImm _ => .cmp
  | .cmpAbs _ => .cmp
  | .cmpIzy _ => .cmp
  | .cmpZpx _ => .cmp
  | .cmpAby _ => .cmp
  | .cmpAbx _ => .cmp
  | .cpxImm _ => .cpx
  | .cpxZp _ => .cpx
  | .cpxAbs _ => .cpx
  | .cpyImm _ => .cpy
  | .cpyZp _ => .cpy
  | .cpyAbs _ => .cpy
  | .decZp _ => .dec
  | .decAbs _ => .dec
  | .decZpx _ => .dec
  | .decAbx _ => .dec
  | .dex => .dex
  | .dey => .dey
  | .eorIzx _ => .eor
  | .eorZp _ => .eor
  | .eorImm _ => .eor
  | .eorAbs _ => .eor
  | .eorIzy _ => .eor
  | .eorZpx _ => .eor
  | .eorAby _ => .eor
  | .eorAbx _ => .eor
  | .incZp _ => .inc
  | .incAbs _ => .inc
  | .incZpx _ => .inc
  | .incAbx _ => .inc
  | .inx => .inx
  | .iny => .iny
  | .jmpAbs _ => .jmp
  | .jmpInd _ => .jmp
  | .jsr _ => .jsr
  | .ldaIzx _ => .lda
  | .ldaZp _ => .lda
  | .ldaImm _ => .lda
  | .ldaAbs _ => .lda
  | .ldaIzy _ => .lda
  | .ldaZpx _ => .lda
  | .ldaAby _ => .lda
  | .ldaAbx _ => .lda
  | .ldxImm _ => .ldx
  | .ldxZp _ => .ldx
  | .ldxAbs _ => .ldx
  | .ldxZpy _ => .ldx
  | .ldxAby _ => .ldx
  | .ldyImm _ => .ldy
  | .ldyZp _ => .ldy
  | .ldyAbs _ => .ldy
  | .ldyZpx _ => .ldy
  | .ldyAbx _ => .ldy
  | .lsrZp _ => .lsr
  | .lsrAcc => .lsr
  | .lsrAbs _ => .lsr
  | .lsrZpx _ => .lsr
  | .lsrAbx _ => .lsr
  | .nop => .nop
  | .oraIzx _ => .ora
  | .oraZp _ => .ora
  | .oraImm _ => .ora
  | .oraAbs _ => .ora
  | .oraIzy _ => .ora
  | .oraZpx _ => .ora
  | .oraAby _ => .ora
  | .oraAbx _ => .ora
  | .pha => .pha
  | .php => .php
  | .pla => .pla
  | .plp => .plp
  | .rolZp _ => .rol
  | .rolAcc => .rol
  | .rolAbs _ => .rol
  | .rolZpx _ => .rol
  | .rolAbx _ => .rol
  | .rorZp _ => .ror
  | .rorAcc => .ror
  | .rorAbs _ => .ror
  | .rorZpx _ => .ror
  | .rorAbx _ => .ror
  | .rti => .rti
  | .rts => .rts
  | .sbcIzx _ => .sbc
  | .sbcZp _ => .sbc
  | .sbcImm _ => .sbc
  | .sbcAbs _ => .sbc
  | .sbcIzy _ => .sbc
  | .sbcZpx _ => .sbc
  | .sbcAby _ => .sbc
  | .sbcAbx _ => .sbc
  | .sec => .sec
  | .sed => .sed
  | .sei => .sei
  | .staIzx _ => .sta
  | .staZp _ => .sta
  | .staAbs _ => .sta
  | .staIzy _ => .sta
  | .staZpx _ => .sta
  | .staAby _ => .sta
  | .staAbx _ => .sta
  | .stxZp _ => .stx
  | .stxAbs _ => .stx
  | .stxZpy _ => .stx
  | .styZp _ => .sty
  | .styAbs _ => .sty
  | .styZpx _ => .sty
  | .tax => .tax
  | .tay => .tay
  | .tsx => .tsx
  | .txa => .txa
  | .txs => .txs
  | .tya => .tya

/-- The operand form of an instruction (R72, R74). -/
def Instr.operand : Instr → Operand
  | .adcIzx z => .izx z
  | .adcZp z => .zp z
  | .adcImm v => .imm v
  | .adcAbs a => .abs a
  | .adcIzy z => .izy z
  | .adcZpx z => .zpx z
  | .adcAby a => .aby a
  | .adcAbx a => .abx a
  | .andIzx z => .izx z
  | .andZp z => .zp z
  | .andImm v => .imm v
  | .andAbs a => .abs a
  | .andIzy z => .izy z
  | .andZpx z => .zpx z
  | .andAby a => .aby a
  | .andAbx a => .abx a
  | .aslZp z => .zp z
  | .aslAcc => .acc
  | .aslAbs a => .abs a
  | .aslZpx z => .zpx z
  | .aslAbx a => .abx a
  | .bcc o => .rel o
  | .bcs o => .rel o
  | .beq o => .rel o
  | .bitZp z => .zp z
  | .bitAbs a => .abs a
  | .bmi o => .rel o
  | .bne o => .rel o
  | .bpl o => .rel o
  | .brk => .imp
  | .bvc o => .rel o
  | .bvs o => .rel o
  | .clc => .imp
  | .cld => .imp
  | .cli => .imp
  | .clv => .imp
  | .cmpIzx z => .izx z
  | .cmpZp z => .zp z
  | .cmpImm v => .imm v
  | .cmpAbs a => .abs a
  | .cmpIzy z => .izy z
  | .cmpZpx z => .zpx z
  | .cmpAby a => .aby a
  | .cmpAbx a => .abx a
  | .cpxImm v => .imm v
  | .cpxZp z => .zp z
  | .cpxAbs a => .abs a
  | .cpyImm v => .imm v
  | .cpyZp z => .zp z
  | .cpyAbs a => .abs a
  | .decZp z => .zp z
  | .decAbs a => .abs a
  | .decZpx z => .zpx z
  | .decAbx a => .abx a
  | .dex => .imp
  | .dey => .imp
  | .eorIzx z => .izx z
  | .eorZp z => .zp z
  | .eorImm v => .imm v
  | .eorAbs a => .abs a
  | .eorIzy z => .izy z
  | .eorZpx z => .zpx z
  | .eorAby a => .aby a
  | .eorAbx a => .abx a
  | .incZp z => .zp z
  | .incAbs a => .abs a
  | .incZpx z => .zpx z
  | .incAbx a => .abx a
  | .inx => .imp
  | .iny => .imp
  | .jmpAbs a => .abs a
  | .jmpInd a => .ind a
  | .jsr a => .abs a
  | .ldaIzx z => .izx z
  | .ldaZp z => .zp z
  | .ldaImm v => .imm v
  | .ldaAbs a => .abs a
  | .ldaIzy z => .izy z
  | .ldaZpx z => .zpx z
  | .ldaAby a => .aby a
  | .ldaAbx a => .abx a
  | .ldxImm v => .imm v
  | .ldxZp z => .zp z
  | .ldxAbs a => .abs a
  | .ldxZpy z => .zpy z
  | .ldxAby a => .aby a
  | .ldyImm v => .imm v
  | .ldyZp z => .zp z
  | .ldyAbs a => .abs a
  | .ldyZpx z => .zpx z
  | .ldyAbx a => .abx a
  | .lsrZp z => .zp z
  | .lsrAcc => .acc
  | .lsrAbs a => .abs a
  | .lsrZpx z => .zpx z
  | .lsrAbx a => .abx a
  | .nop => .imp
  | .oraIzx z => .izx z
  | .oraZp z => .zp z
  | .oraImm v => .imm v
  | .oraAbs a => .abs a
  | .oraIzy z => .izy z
  | .oraZpx z => .zpx z
  | .oraAby a => .aby a
  | .oraAbx a => .abx a
  | .pha => .imp
  | .php => .imp
  | .pla => .imp
  | .plp => .imp
  | .rolZp z => .zp z
  | .rolAcc => .acc
  | .rolAbs a => .abs a
  | .rolZpx z => .zpx z
  | .rolAbx a => .abx a
  | .rorZp z => .zp z
  | .rorAcc => .acc
  | .rorAbs a => .abs a
  | .rorZpx z => .zpx z
  | .rorAbx a => .abx a
  | .rti => .imp
  | .rts => .imp
  | .sbcIzx z => .izx z
  | .sbcZp z => .zp z
  | .sbcImm v => .imm v
  | .sbcAbs a => .abs a
  | .sbcIzy z => .izy z
  | .sbcZpx z => .zpx z
  | .sbcAby a => .aby a
  | .sbcAbx a => .abx a
  | .sec => .imp
  | .sed => .imp
  | .sei => .imp
  | .staIzx z => .izx z
  | .staZp z => .zp z
  | .staAbs a => .abs a
  | .staIzy z => .izy z
  | .staZpx z => .zpx z
  | .staAby a => .aby a
  | .staAbx a => .abx a
  | .stxZp z => .zp z
  | .stxAbs a => .abs a
  | .stxZpy z => .zpy z
  | .styZp z => .zp z
  | .styAbs a => .abs a
  | .styZpx z => .zpx z
  | .tax => .imp
  | .tay => .imp
  | .tsx => .imp
  | .txa => .imp
  | .txs => .imp
  | .tya => .imp

end Sys2Proof
end

