-- ==== Sys2Proof/WellFormed.lean ====
section
/-! DEFINITION. When a row of the dispatch table is well formed: the checks that make a contract violation unreachable
(40_addressing.md R106, R107; 60_exceptions.md R242: "this can only happen if the dispatch table itself is malformed"). -/

namespace Sys2Proof

/-- What an operation does with its operand location (glossary of 00_scope.md; files 42 to 47). -/
inductive OpKind where
  /-- only `Load`s its operand -/
  | read
  /-- only `Store`s its operand -/
  | store
  /-- `Load`s then `Store`s the same location (R169) -/
  | modify
  /-- a conditional branch (R190) -/
  | branch
  /-- JMP (R199) -/
  | jump
  /-- JSR (R200) -/
  | call
  /-- names its own registers (R92) -/
  | implied
deriving DecidableEq, Repr

def Op.kind : Op → OpKind
  | .lda | .ldx | .ldy | .adc | .sbc | .and | .ora | .eor | .cmp | .cpx | .cpy | .bit => .read
  | .sta | .stx | .sty => .store
  | .asl | .lsr | .rol | .ror | .inc | .dec => .modify
  | .bpl | .bmi | .bvc | .bvs | .bcc | .bcs | .bne | .beq => .branch
  | .jmp => .jump
  | .jsr => .call
  | .tax | .tay | .txa | .tya | .tsx | .txs | .inx | .iny | .dex | .dey | .pha | .pla | .php | .plp
  | .clc | .sec | .cli | .sei | .clv | .cld | .sed | .nop | .brk | .rts | .rti => .implied

/-- The modes whose location is a data byte in memory. -/
def Mode.isMemory : Mode → Bool
  | .zp | .zpx | .zpy | .abs | .abx | .aby | .izx | .izy => true
  | .acc | .imm | .ind | .rel | .imp => false

/-- The modes that report a page crossing to a data access (R105). -/
def Mode.mayCross : Mode → Bool
  | .abx | .aby | .izy => true
  | .acc | .imm | .zp | .zpx | .zpy | .abs | .ind | .izx | .rel | .imp => false

/-- Which modes a kind of operation may be paired with: no `Load` through Implied, Relative or Indirect, no `Store` through
those or Immediate, Relative for branches alone, Indirect for JMP alone (R93, R101, R104, R106, R107). -/
def OpKind.fits : OpKind → Mode → Bool
  | .read, m => m.isMemory || m == .imm
  | .store, m => m.isMemory
  | .modify, m => m.isMemory || m == .acc
  | .branch, m => m == .rel
  | .jump, m => m == .abs || m == .ind
  | .call, m => m == .abs
  | .implied, m => m == .imp

/-- A descriptor is well formed when its mode fits its operation, its base count is 2 to 7 (R73), and its extra-cycle flag is
1 for the branches and for the page-crossing modes of the read instructions, and for nothing else (R81). -/
def Descriptor.wf (d : Descriptor) : Bool :=
  d.op.kind.fits d.mode && decide (2 ≤ d.cycles ∧ d.cycles ≤ 7) &&
    d.extra == (d.op.kind == .branch || (d.op.kind == .read && d.mode.mayCross))

/-- An instruction is well formed when its mode fits its operation. `Instr` has a constructor for the pairs of R74 only and
its operands have the width of their bytes, so every instruction is well formed (`Sys2Proof.Laws.instr_wf`). -/
def Instr.wf (i : Instr) : Bool := i.op.kind.fits i.operand.mode

end Sys2Proof
end

