-- ==== Sys2Proof/Decode.lean ====
section
/-! DEFINITION. The 256-entry dispatch table (30_encoding.md R73 to R76), the decoder, total on any bytes, and the encoder. -/

namespace Sys2Proof

/-- A row of the dispatch table: the opcode byte, its descriptor (R73), and the instruction its operand bytes 1 and 2 make
(R71, R72). -/
structure TableRow where
  opcode : Byte
  desc   : Descriptor
  make   : Byte → Byte → Instr

/-- Row 0x of the map of R74. -/
def tableRow0 : List TableRow := [
  ⟨0x00, ⟨.brk, .imp, 7, false⟩, fun _ _ => .brk⟩,
  ⟨0x01, ⟨.ora, .izx, 6, false⟩, fun b1 _ => .oraIzx b1⟩,
  ⟨0x05, ⟨.ora, .zp, 3, false⟩, fun b1 _ => .oraZp b1⟩,
  ⟨0x06, ⟨.asl, .zp, 5, false⟩, fun b1 _ => .aslZp b1⟩,
  ⟨0x08, ⟨.php, .imp, 3, false⟩, fun _ _ => .php⟩,
  ⟨0x09, ⟨.ora, .imm, 2, false⟩, fun b1 _ => .oraImm b1⟩,
  ⟨0x0A, ⟨.asl, .acc, 2, false⟩, fun _ _ => .aslAcc⟩,
  ⟨0x0D, ⟨.ora, .abs, 4, false⟩, fun b1 b2 => .oraAbs (join b2 b1)⟩,
  ⟨0x0E, ⟨.asl, .abs, 6, false⟩, fun b1 b2 => .aslAbs (join b2 b1)⟩]

/-- Row 1x of the map of R74. -/
def tableRow1 : List TableRow := [
  ⟨0x10, ⟨.bpl, .rel, 2, true⟩, fun b1 _ => .bpl b1⟩,
  ⟨0x11, ⟨.ora, .izy, 5, true⟩, fun b1 _ => .oraIzy b1⟩,
  ⟨0x15, ⟨.ora, .zpx, 4, false⟩, fun b1 _ => .oraZpx b1⟩,
  ⟨0x16, ⟨.asl, .zpx, 6, false⟩, fun b1 _ => .aslZpx b1⟩,
  ⟨0x18, ⟨.clc, .imp, 2, false⟩, fun _ _ => .clc⟩,
  ⟨0x19, ⟨.ora, .aby, 4, true⟩, fun b1 b2 => .oraAby (join b2 b1)⟩,
  ⟨0x1D, ⟨.ora, .abx, 4, true⟩, fun b1 b2 => .oraAbx (join b2 b1)⟩,
  ⟨0x1E, ⟨.asl, .abx, 7, false⟩, fun b1 b2 => .aslAbx (join b2 b1)⟩]

/-- Row 2x of the map of R74. -/
def tableRow2 : List TableRow := [
  ⟨0x20, ⟨.jsr, .abs, 6, false⟩, fun b1 b2 => .jsr (join b2 b1)⟩,
  ⟨0x21, ⟨.and, .izx, 6, false⟩, fun b1 _ => .andIzx b1⟩,
  ⟨0x24, ⟨.bit, .zp, 3, false⟩, fun b1 _ => .bitZp b1⟩,
  ⟨0x25, ⟨.and, .zp, 3, false⟩, fun b1 _ => .andZp b1⟩,
  ⟨0x26, ⟨.rol, .zp, 5, false⟩, fun b1 _ => .rolZp b1⟩,
  ⟨0x28, ⟨.plp, .imp, 4, false⟩, fun _ _ => .plp⟩,
  ⟨0x29, ⟨.and, .imm, 2, false⟩, fun b1 _ => .andImm b1⟩,
  ⟨0x2A, ⟨.rol, .acc, 2, false⟩, fun _ _ => .rolAcc⟩,
  ⟨0x2C, ⟨.bit, .abs, 4, false⟩, fun b1 b2 => .bitAbs (join b2 b1)⟩,
  ⟨0x2D, ⟨.and, .abs, 4, false⟩, fun b1 b2 => .andAbs (join b2 b1)⟩,
  ⟨0x2E, ⟨.rol, .abs, 6, false⟩, fun b1 b2 => .rolAbs (join b2 b1)⟩]

/-- Row 3x of the map of R74. -/
def tableRow3 : List TableRow := [
  ⟨0x30, ⟨.bmi, .rel, 2, true⟩, fun b1 _ => .bmi b1⟩,
  ⟨0x31, ⟨.and, .izy, 5, true⟩, fun b1 _ => .andIzy b1⟩,
  ⟨0x35, ⟨.and, .zpx, 4, false⟩, fun b1 _ => .andZpx b1⟩,
  ⟨0x36, ⟨.rol, .zpx, 6, false⟩, fun b1 _ => .rolZpx b1⟩,
  ⟨0x38, ⟨.sec, .imp, 2, false⟩, fun _ _ => .sec⟩,
  ⟨0x39, ⟨.and, .aby, 4, true⟩, fun b1 b2 => .andAby (join b2 b1)⟩,
  ⟨0x3D, ⟨.and, .abx, 4, true⟩, fun b1 b2 => .andAbx (join b2 b1)⟩,
  ⟨0x3E, ⟨.rol, .abx, 7, false⟩, fun b1 b2 => .rolAbx (join b2 b1)⟩]

/-- Row 4x of the map of R74. -/
def tableRow4 : List TableRow := [
  ⟨0x40, ⟨.rti, .imp, 6, false⟩, fun _ _ => .rti⟩,
  ⟨0x41, ⟨.eor, .izx, 6, false⟩, fun b1 _ => .eorIzx b1⟩,
  ⟨0x45, ⟨.eor, .zp, 3, false⟩, fun b1 _ => .eorZp b1⟩,
  ⟨0x46, ⟨.lsr, .zp, 5, false⟩, fun b1 _ => .lsrZp b1⟩,
  ⟨0x48, ⟨.pha, .imp, 3, false⟩, fun _ _ => .pha⟩,
  ⟨0x49, ⟨.eor, .imm, 2, false⟩, fun b1 _ => .eorImm b1⟩,
  ⟨0x4A, ⟨.lsr, .acc, 2, false⟩, fun _ _ => .lsrAcc⟩,
  ⟨0x4C, ⟨.jmp, .abs, 3, false⟩, fun b1 b2 => .jmpAbs (join b2 b1)⟩,
  ⟨0x4D, ⟨.eor, .abs, 4, false⟩, fun b1 b2 => .eorAbs (join b2 b1)⟩,
  ⟨0x4E, ⟨.lsr, .abs, 6, false⟩, fun b1 b2 => .lsrAbs (join b2 b1)⟩]

/-- Row 5x of the map of R74. -/
def tableRow5 : List TableRow := [
  ⟨0x50, ⟨.bvc, .rel, 2, true⟩, fun b1 _ => .bvc b1⟩,
  ⟨0x51, ⟨.eor, .izy, 5, true⟩, fun b1 _ => .eorIzy b1⟩,
  ⟨0x55, ⟨.eor, .zpx, 4, false⟩, fun b1 _ => .eorZpx b1⟩,
  ⟨0x56, ⟨.lsr, .zpx, 6, false⟩, fun b1 _ => .lsrZpx b1⟩,
  ⟨0x58, ⟨.cli, .imp, 2, false⟩, fun _ _ => .cli⟩,
  ⟨0x59, ⟨.eor, .aby, 4, true⟩, fun b1 b2 => .eorAby (join b2 b1)⟩,
  ⟨0x5D, ⟨.eor, .abx, 4, true⟩, fun b1 b2 => .eorAbx (join b2 b1)⟩,
  ⟨0x5E, ⟨.lsr, .abx, 7, false⟩, fun b1 b2 => .lsrAbx (join b2 b1)⟩]

/-- Row 6x of the map of R74. -/
def tableRow6 : List TableRow := [
  ⟨0x60, ⟨.rts, .imp, 6, false⟩, fun _ _ => .rts⟩,
  ⟨0x61, ⟨.adc, .izx, 6, false⟩, fun b1 _ => .adcIzx b1⟩,
  ⟨0x65, ⟨.adc, .zp, 3, false⟩, fun b1 _ => .adcZp b1⟩,
  ⟨0x66, ⟨.ror, .zp, 5, false⟩, fun b1 _ => .rorZp b1⟩,
  ⟨0x68, ⟨.pla, .imp, 4, false⟩, fun _ _ => .pla⟩,
  ⟨0x69, ⟨.adc, .imm, 2, false⟩, fun b1 _ => .adcImm b1⟩,
  ⟨0x6A, ⟨.ror, .acc, 2, false⟩, fun _ _ => .rorAcc⟩,
  ⟨0x6C, ⟨.jmp, .ind, 5, false⟩, fun b1 b2 => .jmpInd (join b2 b1)⟩,
  ⟨0x6D, ⟨.adc, .abs, 4, false⟩, fun b1 b2 => .adcAbs (join b2 b1)⟩,
  ⟨0x6E, ⟨.ror, .abs, 6, false⟩, fun b1 b2 => .rorAbs (join b2 b1)⟩]

/-- Row 7x of the map of R74. -/
def tableRow7 : List TableRow := [
  ⟨0x70, ⟨.bvs, .rel, 2, true⟩, fun b1 _ => .bvs b1⟩,
  ⟨0x71, ⟨.adc, .izy, 5, true⟩, fun b1 _ => .adcIzy b1⟩,
  ⟨0x75, ⟨.adc, .zpx, 4, false⟩, fun b1 _ => .adcZpx b1⟩,
  ⟨0x76, ⟨.ror, .zpx, 6, false⟩, fun b1 _ => .rorZpx b1⟩,
  ⟨0x78, ⟨.sei, .imp, 2, false⟩, fun _ _ => .sei⟩,
  ⟨0x79, ⟨.adc, .aby, 4, true⟩, fun b1 b2 => .adcAby (join b2 b1)⟩,
  ⟨0x7D, ⟨.adc, .abx, 4, true⟩, fun b1 b2 => .adcAbx (join b2 b1)⟩,
  ⟨0x7E, ⟨.ror, .abx, 7, false⟩, fun b1 b2 => .rorAbx (join b2 b1)⟩]

/-- Row 8x of the map of R74. -/
def tableRow8 : List TableRow := [
  ⟨0x81, ⟨.sta, .izx, 6, false⟩, fun b1 _ => .staIzx b1⟩,
  ⟨0x84, ⟨.sty, .zp, 3, false⟩, fun b1 _ => .styZp b1⟩,
  ⟨0x85, ⟨.sta, .zp, 3, false⟩, fun b1 _ => .staZp b1⟩,
  ⟨0x86, ⟨.stx, .zp, 3, false⟩, fun b1 _ => .stxZp b1⟩,
  ⟨0x88, ⟨.dey, .imp, 2, false⟩, fun _ _ => .dey⟩,
  ⟨0x8A, ⟨.txa, .imp, 2, false⟩, fun _ _ => .txa⟩,
  ⟨0x8C, ⟨.sty, .abs, 4, false⟩, fun b1 b2 => .styAbs (join b2 b1)⟩,
  ⟨0x8D, ⟨.sta, .abs, 4, false⟩, fun b1 b2 => .staAbs (join b2 b1)⟩,
  ⟨0x8E, ⟨.stx, .abs, 4, false⟩, fun b1 b2 => .stxAbs (join b2 b1)⟩]

/-- Row 9x of the map of R74. -/
def tableRow9 : List TableRow := [
  ⟨0x90, ⟨.bcc, .rel, 2, true⟩, fun b1 _ => .bcc b1⟩,
  ⟨0x91, ⟨.sta, .izy, 6, false⟩, fun b1 _ => .staIzy b1⟩,
  ⟨0x94, ⟨.sty, .zpx, 4, false⟩, fun b1 _ => .styZpx b1⟩,
  ⟨0x95, ⟨.sta, .zpx, 4, false⟩, fun b1 _ => .staZpx b1⟩,
  ⟨0x96, ⟨.stx, .zpy, 4, false⟩, fun b1 _ => .stxZpy b1⟩,
  ⟨0x98, ⟨.tya, .imp, 2, false⟩, fun _ _ => .tya⟩,
  ⟨0x99, ⟨.sta, .aby, 5, false⟩, fun b1 b2 => .staAby (join b2 b1)⟩,
  ⟨0x9A, ⟨.txs, .imp, 2, false⟩, fun _ _ => .txs⟩,
  ⟨0x9D, ⟨.sta, .abx, 5, false⟩, fun b1 b2 => .staAbx (join b2 b1)⟩]

/-- Row Ax of the map of R74. -/
def tableRowA : List TableRow := [
  ⟨0xA0, ⟨.ldy, .imm, 2, false⟩, fun b1 _ => .ldyImm b1⟩,
  ⟨0xA1, ⟨.lda, .izx, 6, false⟩, fun b1 _ => .ldaIzx b1⟩,
  ⟨0xA2, ⟨.ldx, .imm, 2, false⟩, fun b1 _ => .ldxImm b1⟩,
  ⟨0xA4, ⟨.ldy, .zp, 3, false⟩, fun b1 _ => .ldyZp b1⟩,
  ⟨0xA5, ⟨.lda, .zp, 3, false⟩, fun b1 _ => .ldaZp b1⟩,
  ⟨0xA6, ⟨.ldx, .zp, 3, false⟩, fun b1 _ => .ldxZp b1⟩,
  ⟨0xA8, ⟨.tay, .imp, 2, false⟩, fun _ _ => .tay⟩,
  ⟨0xA9, ⟨.lda, .imm, 2, false⟩, fun b1 _ => .ldaImm b1⟩,
  ⟨0xAA, ⟨.tax, .imp, 2, false⟩, fun _ _ => .tax⟩,
  ⟨0xAC, ⟨.ldy, .abs, 4, false⟩, fun b1 b2 => .ldyAbs (join b2 b1)⟩,
  ⟨0xAD, ⟨.lda, .abs, 4, false⟩, fun b1 b2 => .ldaAbs (join b2 b1)⟩,
  ⟨0xAE, ⟨.ldx, .abs, 4, false⟩, fun b1 b2 => .ldxAbs (join b2 b1)⟩]

/-- Row Bx of the map of R74. -/
def tableRowB : List TableRow := [
  ⟨0xB0, ⟨.bcs, .rel, 2, true⟩, fun b1 _ => .bcs b1⟩,
  ⟨0xB1, ⟨.lda, .izy, 5, true⟩, fun b1 _ => .ldaIzy b1⟩,
  ⟨0xB4, ⟨.ldy, .zpx, 4, false⟩, fun b1 _ => .ldyZpx b1⟩,
  ⟨0xB5, ⟨.lda, .zpx, 4, false⟩, fun b1 _ => .ldaZpx b1⟩,
  ⟨0xB6, ⟨.ldx, .zpy, 4, false⟩, fun b1 _ => .ldxZpy b1⟩,
  ⟨0xB8, ⟨.clv, .imp, 2, false⟩, fun _ _ => .clv⟩,
  ⟨0xB9, ⟨.lda, .aby, 4, true⟩, fun b1 b2 => .ldaAby (join b2 b1)⟩,
  ⟨0xBA, ⟨.tsx, .imp, 2, false⟩, fun _ _ => .tsx⟩,
  ⟨0xBC, ⟨.ldy, .abx, 4, true⟩, fun b1 b2 => .ldyAbx (join b2 b1)⟩,
  ⟨0xBD, ⟨.lda, .abx, 4, true⟩, fun b1 b2 => .ldaAbx (join b2 b1)⟩,
  ⟨0xBE, ⟨.ldx, .aby, 4, true⟩, fun b1 b2 => .ldxAby (join b2 b1)⟩]

/-- Row Cx of the map of R74. -/
def tableRowC : List TableRow := [
  ⟨0xC0, ⟨.cpy, .imm, 2, false⟩, fun b1 _ => .cpyImm b1⟩,
  ⟨0xC1, ⟨.cmp, .izx, 6, false⟩, fun b1 _ => .cmpIzx b1⟩,
  ⟨0xC4, ⟨.cpy, .zp, 3, false⟩, fun b1 _ => .cpyZp b1⟩,
  ⟨0xC5, ⟨.cmp, .zp, 3, false⟩, fun b1 _ => .cmpZp b1⟩,
  ⟨0xC6, ⟨.dec, .zp, 5, false⟩, fun b1 _ => .decZp b1⟩,
  ⟨0xC8, ⟨.iny, .imp, 2, false⟩, fun _ _ => .iny⟩,
  ⟨0xC9, ⟨.cmp, .imm, 2, false⟩, fun b1 _ => .cmpImm b1⟩,
  ⟨0xCA, ⟨.dex, .imp, 2, false⟩, fun _ _ => .dex⟩,
  ⟨0xCC, ⟨.cpy, .abs, 4, false⟩, fun b1 b2 => .cpyAbs (join b2 b1)⟩,
  ⟨0xCD, ⟨.cmp, .abs, 4, false⟩, fun b1 b2 => .cmpAbs (join b2 b1)⟩,
  ⟨0xCE, ⟨.dec, .abs, 6, false⟩, fun b1 b2 => .decAbs (join b2 b1)⟩]

/-- Row Dx of the map of R74. -/
def tableRowD : List TableRow := [
  ⟨0xD0, ⟨.bne, .rel, 2, true⟩, fun b1 _ => .bne b1⟩,
  ⟨0xD1, ⟨.cmp, .izy, 5, true⟩, fun b1 _ => .cmpIzy b1⟩,
  ⟨0xD5, ⟨.cmp, .zpx, 4, false⟩, fun b1 _ => .cmpZpx b1⟩,
  ⟨0xD6, ⟨.dec, .zpx, 6, false⟩, fun b1 _ => .decZpx b1⟩,
  ⟨0xD8, ⟨.cld, .imp, 2, false⟩, fun _ _ => .cld⟩,
  ⟨0xD9, ⟨.cmp, .aby, 4, true⟩, fun b1 b2 => .cmpAby (join b2 b1)⟩,
  ⟨0xDD, ⟨.cmp, .abx, 4, true⟩, fun b1 b2 => .cmpAbx (join b2 b1)⟩,
  ⟨0xDE, ⟨.dec, .abx, 7, false⟩, fun b1 b2 => .decAbx (join b2 b1)⟩]

/-- Row Ex of the map of R74. -/
def tableRowE : List TableRow := [
  ⟨0xE0, ⟨.cpx, .imm, 2, false⟩, fun b1 _ => .cpxImm b1⟩,
  ⟨0xE1, ⟨.sbc, .izx, 6, false⟩, fun b1 _ => .sbcIzx b1⟩,
  ⟨0xE4, ⟨.cpx, .zp, 3, false⟩, fun b1 _ => .cpxZp b1⟩,
  ⟨0xE5, ⟨.sbc, .zp, 3, false⟩, fun b1 _ => .sbcZp b1⟩,
  ⟨0xE6, ⟨.inc, .zp, 5, false⟩, fun b1 _ => .incZp b1⟩,
  ⟨0xE8, ⟨.inx, .imp, 2, false⟩, fun _ _ => .inx⟩,
  ⟨0xE9, ⟨.sbc, .imm, 2, false⟩, fun b1 _ => .sbcImm b1⟩,
  ⟨0xEA, ⟨.nop, .imp, 2, false⟩, fun _ _ => .nop⟩,
  ⟨0xEC, ⟨.cpx, .abs, 4, false⟩, fun b1 b2 => .cpxAbs (join b2 b1)⟩,
  ⟨0xED, ⟨.sbc, .abs, 4, false⟩, fun b1 b2 => .sbcAbs (join b2 b1)⟩,
  ⟨0xEE, ⟨.inc, .abs, 6, false⟩, fun b1 b2 => .incAbs (join b2 b1)⟩]

/-- Row Fx of the map of R74. -/
def tableRowF : List TableRow := [
  ⟨0xF0, ⟨.beq, .rel, 2, true⟩, fun b1 _ => .beq b1⟩,
  ⟨0xF1, ⟨.sbc, .izy, 5, true⟩, fun b1 _ => .sbcIzy b1⟩,
  ⟨0xF5, ⟨.sbc, .zpx, 4, false⟩, fun b1 _ => .sbcZpx b1⟩,
  ⟨0xF6, ⟨.inc, .zpx, 6, false⟩, fun b1 _ => .incZpx b1⟩,
  ⟨0xF8, ⟨.sed, .imp, 2, false⟩, fun _ _ => .sed⟩,
  ⟨0xF9, ⟨.sbc, .aby, 4, true⟩, fun b1 b2 => .sbcAby (join b2 b1)⟩,
  ⟨0xFD, ⟨.sbc, .abx, 4, true⟩, fun b1 b2 => .sbcAbx (join b2 b1)⟩,
  ⟨0xFE, ⟨.inc, .abx, 7, false⟩, fun b1 b2 => .incAbx (join b2 b1)⟩]

/-- All rows of R74, by high nibble of the opcode. -/
def tableRows (h : Nat) : List TableRow :=
  match h with
  | 0 => tableRow0
  | 1 => tableRow1
  | 2 => tableRow2
  | 3 => tableRow3
  | 4 => tableRow4
  | 5 => tableRow5
  | 6 => tableRow6
  | 7 => tableRow7
  | 8 => tableRow8
  | 9 => tableRow9
  | 10 => tableRowA
  | 11 => tableRowB
  | 12 => tableRowC
  | 13 => tableRowD
  | 14 => tableRowE
  | _ => tableRowF

/-- `TABLE[opcode]` (R113): the row of the 151 opcodes of R74, and `none` (ILLEGAL) for the 105 of R75. -/
def lookup (opcode : Byte) : Option TableRow :=
  (tableRows (opcode.toNat / 16)).find? fun r => r.opcode == opcode

/-- The descriptor of an opcode byte, `none` for ILLEGAL (R73, R113). -/
def descriptor (opcode : Byte) : Option Descriptor := (lookup opcode).map TableRow.desc

/-- Operand byte length of a mode (R71). -/
def Mode.oplen : Mode → Nat
  | .imp | .acc => 0
  | .imm | .zp | .zpx | .zpy | .izx | .izy | .rel => 1
  | .abs | .abx | .aby | .ind => 2

/-- Why the decoder rejects bytes. Nothing else is rejected: safe. -/
inductive DecodeError where
  /-- there is no byte -/
  | empty
  /-- the first byte is one of the 105 opcode values with no operation (R75) -/
  | illegalOpcode (opcode : Byte)
  /-- an opcode of R74 with fewer operand bytes than its mode has (log entry 17) -/
  | truncated (opcode : Byte)
deriving DecidableEq, Repr

/-- The decoder, total on any bytes (R76): the instruction its first bytes encode and the bytes after it. The length comes
from the opcode byte alone. -/
def decode : List Byte → Except DecodeError (Instr × List Byte)
  | [] => .error .empty
  | opcode :: rest =>
    match lookup opcode with
    | none => .error (.illegalOpcode opcode)
    | some r =>
      match r.desc.mode.oplen, rest with
      | 0, rest => .ok (r.make 0 0, rest)
      | 1, b1 :: rest => .ok (r.make b1 0, rest)
      | _, b1 :: b2 :: rest => .ok (r.make b1 b2, rest)
      | _, _ => .error (.truncated opcode)

/-- The opcode byte of an instruction (R74). -/
def Instr.opcode : Instr → Byte
  | .adcIzx _ => 0x61
  | .adcZp _ => 0x65
  | .adcImm _ => 0x69
  | .adcAbs _ => 0x6D
  | .adcIzy _ => 0x71
  | .adcZpx _ => 0x75
  | .adcAby _ => 0x79
  | .adcAbx _ => 0x7D
  | .andIzx _ => 0x21
  | .andZp _ => 0x25
  | .andImm _ => 0x29
  | .andAbs _ => 0x2D
  | .andIzy _ => 0x31
  | .andZpx _ => 0x35
  | .andAby _ => 0x39
  | .andAbx _ => 0x3D
  | .aslZp _ => 0x06
  | .aslAcc => 0x0A
  | .aslAbs _ => 0x0E
  | .aslZpx _ => 0x16
  | .aslAbx _ => 0x1E
  | .bcc _ => 0x90
  | .bcs _ => 0xB0
  | .beq _ => 0xF0
  | .bitZp _ => 0x24
  | .bitAbs _ => 0x2C
  | .bmi _ => 0x30
  | .bne _ => 0xD0
  | .bpl _ => 0x10
  | .brk => 0x00
  | .bvc _ => 0x50
  | .bvs _ => 0x70
  | .clc => 0x18
  | .cld => 0xD8
  | .cli => 0x58
  | .clv => 0xB8
  | .cmpIzx _ => 0xC1
  | .cmpZp _ => 0xC5
  | .cmpImm _ => 0xC9
  | .cmpAbs _ => 0xCD
  | .cmpIzy _ => 0xD1
  | .cmpZpx _ => 0xD5
  | .cmpAby _ => 0xD9
  | .cmpAbx _ => 0xDD
  | .cpxImm _ => 0xE0
  | .cpxZp _ => 0xE4
  | .cpxAbs _ => 0xEC
  | .cpyImm _ => 0xC0
  | .cpyZp _ => 0xC4
  | .cpyAbs _ => 0xCC
  | .decZp _ => 0xC6
  | .decAbs _ => 0xCE
  | .decZpx _ => 0xD6
  | .decAbx _ => 0xDE
  | .dex => 0xCA
  | .dey => 0x88
  | .eorIzx _ => 0x41
  | .eorZp _ => 0x45
  | .eorImm _ => 0x49
  | .eorAbs _ => 0x4D
  | .eorIzy _ => 0x51
  | .eorZpx _ => 0x55
  | .eorAby _ => 0x59
  | .eorAbx _ => 0x5D
  | .incZp _ => 0xE6
  | .incAbs _ => 0xEE
  | .incZpx _ => 0xF6
  | .incAbx _ => 0xFE
  | .inx => 0xE8
  | .iny => 0xC8
  | .jmpAbs _ => 0x4C
  | .jmpInd _ => 0x6C
  | .jsr _ => 0x20
  | .ldaIzx _ => 0xA1
  | .ldaZp _ => 0xA5
  | .ldaImm _ => 0xA9
  | .ldaAbs _ => 0xAD
  | .ldaIzy _ => 0xB1
  | .ldaZpx _ => 0xB5
  | .ldaAby _ => 0xB9
  | .ldaAbx _ => 0xBD
  | .ldxImm _ => 0xA2
  | .ldxZp _ => 0xA6
  | .ldxAbs _ => 0xAE
  | .ldxZpy _ => 0xB6
  | .ldxAby _ => 0xBE
  | .ldyImm _ => 0xA0
  | .ldyZp _ => 0xA4
  | .ldyAbs _ => 0xAC
  | .ldyZpx _ => 0xB4
  | .ldyAbx _ => 0xBC
  | .lsrZp _ => 0x46
  | .lsrAcc => 0x4A
  | .lsrAbs _ => 0x4E
  | .lsrZpx _ => 0x56
  | .lsrAbx _ => 0x5E
  | .nop => 0xEA
  | .oraIzx _ => 0x01
  | .oraZp _ => 0x05
  | .oraImm _ => 0x09
  | .oraAbs _ => 0x0D
  | .oraIzy _ => 0x11
  | .oraZpx _ => 0x15
  | .oraAby _ => 0x19
  | .oraAbx _ => 0x1D
  | .pha => 0x48
  | .php => 0x08
  | .pla => 0x68
  | .plp => 0x28
  | .rolZp _ => 0x26
  | .rolAcc => 0x2A
  | .rolAbs _ => 0x2E
  | .rolZpx _ => 0x36
  | .rolAbx _ => 0x3E
  | .rorZp _ => 0x66
  | .rorAcc => 0x6A
  | .rorAbs _ => 0x6E
  | .rorZpx _ => 0x76
  | .rorAbx _ => 0x7E
  | .rti => 0x40
  | .rts => 0x60
  | .sbcIzx _ => 0xE1
  | .sbcZp _ => 0xE5
  | .sbcImm _ => 0xE9
  | .sbcAbs _ => 0xED
  | .sbcIzy _ => 0xF1
  | .sbcZpx _ => 0xF5
  | .sbcAby _ => 0xF9
  | .sbcAbx _ => 0xFD
  | .sec => 0x38
  | .sed => 0xF8
  | .sei => 0x78
  | .staIzx _ => 0x81
  | .staZp _ => 0x85
  | .staAbs _ => 0x8D
  | .staIzy _ => 0x91
  | .staZpx _ => 0x95
  | .staAby _ => 0x99
  | .staAbx _ => 0x9D
  | .stxZp _ => 0x86
  | .stxAbs _ => 0x8E
  | .stxZpy _ => 0x96
  | .styZp _ => 0x84
  | .styAbs _ => 0x8C
  | .styZpx _ => 0x94
  | .tax => 0xAA
  | .tay => 0xA8
  | .tsx => 0xBA
  | .txa => 0x8A
  | .txs => 0x9A
  | .tya => 0x98

/-- The operand bytes of an operand form, in the order of R71: a 16-bit operand has its low byte first. -/
def Operand.bytes : Operand → List Byte
  | .imp | .acc => []
  | .imm v | .zp v | .zpx v | .zpy v | .izx v | .izy v | .rel v => [v]
  | .abs a | .abx a | .aby a | .ind a => [lo a, hi a]

/-- The encoder: the bytes of an instruction (R70, R71, R74). -/
def encode (i : Instr) : List Byte := i.opcode :: i.operand.bytes

/-- Length of an instruction in bytes, "length = 1 + oplen" (R76). -/
def Instr.length (i : Instr) : Nat := 1 + i.operand.mode.oplen

/-- The bytes of a table word of `nbits` bits, first byte first, the bits above `nbits` zero, up to the longest instruction
(R70: three bytes). -/
def tableWordBytes (nbits w : Nat) : List Byte :=
  let v := w % 2 ^ nbits
  [BitVec.ofNat 8 v, BitVec.ofNat 8 (v / 256), BitVec.ofNat 8 (v / 65536)]

/-- The instruction the decoder reads from an instruction whose bits are `w`, bit 0 the least significant bit of the first
byte. -/
def decodeTableWord (nbits w : Nat) : Option Instr :=
  match decode (tableWordBytes nbits w) with
  | .ok (i, _) => some i
  | .error _ => none

end Sys2Proof
end

