-- ==== Sys2Proof/Machine/State.lean ====
section
/-! DEFINITION. The machine's state as plain data, the reasons a step stops, and the state after reset. -/

namespace Sys2Proof.Machine

/-- Which access a contract violation was about (60_exceptions.md R240). -/
inductive Access where
  | load
  | store
deriving DecidableEq, Repr

/-- The two fault records of 60_exceptions.md R240. A step that raises one answers a NEXT state with the record in
`State.fault` (R240, R241); a later step of the stopped core answers the fault itself (R121, log entry 1). -/
inductive Fault where
  /-- Recorded by a step that fetched one of the 105 opcode bytes with no operation (R241), and answered by every later step:
  safe, the spec gives the stop. -/
  | illegalOpcode (opcode : Byte) (addr : Word)
  /-- Recorded by `Load` or `Store` through a location that does not support it (R242), which no instruction of `Instr`
  reaches (log entry 13), and answered by every later step: safe. -/
  | contractViolation (which : Access)
deriving DecidableEq, Repr

/-- Why an instruction has no meaning here. -/
inductive Refusal where
  /-- Raised by no arm: every instruction has its meaning. Safe. -/
  | notModelled (mnemonic : String)
deriving DecidableEq, Repr

/-- One bus transaction of the core (00_scope.md R4, 20_memory.md R42). -/
inductive BusAccess where
  | read (addr : Word) (value : Byte)
  | write (addr : Word) (value : Byte)
deriving DecidableEq, Repr

/-- Stored bytes: (address, byte) pairs in the canonical form of `Memory.wf`. -/
abbrev Memory := List Host.Cell

/-- The state. The first nine fields are the nine items of 10_state.md R10; the rest is what stands outside the core and a
step reads or writes (log entries 2, 5, 6, 9, 10). -/
structure State where
  /-- accumulator (R12) -/
  a          : Byte
  /-- index register X (R13) -/
  x          : Byte
  /-- index register Y (R14) -/
  y          : Byte
  /-- stack pointer, offset into page 0x01 (R15) -/
  sp         : Byte
  /-- program counter (R16) -/
  pc         : Word
  /-- status byte, all eight bits stored (R18, R19) -/
  p          : Byte
  /-- `CLK`, the cycle counter (R21) -/
  clk        : Nat
  /-- `NMI_PENDING` (R22) -/
  nmiPending : Bool
  /-- `FAULT` (R23) -/
  fault      : Option Fault
  /-- the level of the input `IRQ_LINE` (R24): read by a step, never written by one (DESIGN CHOICE, safe, log entry 10) -/
  irqLine    : Bool
  /-- the bytes stored behind the bus (R52, R56, R62) -/
  mem        : Memory
  /-- the parameters of R6: never written by a step (DESIGN CHOICE, safe, log entry 2) -/
  params     : Params
  /-- the model's own: transactions forwarded so far to collaborators whose answers are free (R48, log entry 6) -/
  deviceCount : Nat
  /-- the model's own: the bus transactions of the last step, in order (R49, DESIGN CHOICE, safe, log entry 9) -/
  accesses   : List BusAccess
deriving DecidableEq, Repr

/-- The state right after power-on with the default parameters and nothing stored (70_reset_and_hazards.md R270 to R274):
`powerOn Params.default []`, as `Sys2Proof.Machine.reset_eq_powerOn` proves. SP = 0xFD, I = 1 and PC from the reset vector are
the spec's; A, X, Y and the other bits of P are the spec's defaults for values it leaves open, and the vector reads 0x0000
because no byte is listed (DESIGN CHOICE, unsafe for claims about this state alone, log entries 3, 4, 5). -/
def State.reset : State where
  a := 0x00
  x := 0x00
  y := 0x00
  sp := 0xFD
  pc := 0x0000
  p := 0x24
  clk := 0
  nmiPending := false
  fault := none
  irqLine := false
  mem := []
  params := Params.default
  deviceCount := 0
  accesses := [.read 0xFFFC 0x00, .read 0xFFFD 0x00]

end Sys2Proof.Machine
end

