-- ==== Sys2Proof/Machine/Memory.lean ====
section
/-! DEFINITION. The stored bytes: canonical form, read and write of one byte (20_memory.md R41, R52, R62). -/

namespace Sys2Proof.Machine

/-- What a byte that nothing has written reads as: the stub value 0 of R40 and R56, the initial value of R62, and, for
internal RAM, whose contents at power-on are the parameter `RAM_RESET`, the DESIGN CHOICE of log entry 5 (unsafe for claims
about `State.reset` alone). -/
def Memory.unlisted : Byte := 0x00

/-- From address `lo` on: addresses strictly rising and below 65536, and no entry that an unlisted address would read as. -/
def Memory.wfFrom (lo : Nat) : Memory → Bool
  | [] => true
  | (k, v) :: rest => decide (lo ≤ k) && decide (k < 65536) && v != Memory.unlisted && Memory.wfFrom (k + 1) rest

/-- The canonical form: equal memories are equal lists. -/
def Memory.wf (m : Memory) : Bool := Memory.wfFrom 0 m

/-- The byte stored at address `k`. -/
def Memory.read : Memory → Nat → Byte
  | [], _ => Memory.unlisted
  | (j, v) :: rest, k => if j = k then v else Memory.read rest k

/-- No entry for address `k`. -/
def Memory.erase : Memory → Nat → Memory
  | [], _ => []
  | (j, w) :: rest, k => if j = k then Memory.erase rest k else (j, w) :: Memory.erase rest k

/-- An entry at its place in rising order. -/
def Memory.insert : Memory → Nat → Byte → Memory
  | [], k, v => [(k, v)]
  | (j, w) :: rest, k, v => if j < k then (j, w) :: Memory.insert rest k v else (k, v) :: (j, w) :: rest

/-- `v` stored at address `k`; the unlisted value removes the entry. -/
def Memory.write (m : Memory) (k : Nat) (v : Byte) : Memory :=
  if v = Memory.unlisted then Memory.erase m k else Memory.insert (Memory.erase m k) k v

end Sys2Proof.Machine
end

