-- ==== Sys2Proof/Machine/Bus.lean ====
section
/-! DEFINITION. The bus: address decoding, one-byte transactions, and the three 16-bit reads (20_memory.md). -/

namespace Sys2Proof.Machine

/-- What answers at an address (the address map of 20_memory.md section 5). -/
inductive Region where
  /-- a stored byte that a write replaces -/
  | cell (k : Nat)
  /-- a stored byte that absorbs writes -/
  | rom (k : Nat)
  /-- an always-same-value read that ignores writes (R55, R60) -/
  | stub (v : Byte)
  /-- a collaborator whose answers the spec leaves free (R48) -/
  | device (port : DevicePort)
deriving DecidableEq, Repr

/-- Address decoding. Flat test bus: R62. Reference bus: internal RAM at `a & 0x07FF` (R52), picture unit register `a & 7`
(R53), audio/IO register `a - 0x4000` with the I/O port stub (R54, R60), the unassigned addresses (R55), cartridge (R56). -/
def region (p : Params) (a : Word) : Region :=
  match p.bus with
  | .flat => .cell a.toNat
  | .reference =>
    if a.toNat < 0x2000 then .cell (a &&& 0x07FF).toNat
    else if a.toNat < 0x4000 then .device (.picture (a.setWidth 3))
    else if a.toNat < 0x4018 then
      if p.ioPorts.contains a then .stub p.ioStubValue else .device (.audioIo (a.setWidth 5))
    else if a.toNat < 0x4020 then .stub 0x00
    else
      match p.cartridge with
      | .ram => .cell a.toNat
      | .rom => .rom a.toNat
      | .external => .device (.cartridge a)

/-- Whether the transaction is forwarded to a collaborator whose answers are free. -/
def Region.isDevice : Region → Bool
  | .device _ => true
  | .cell _ | .rom _ | .stub _ => false

/-- The byte a read of `a` would answer now (R40: some byte, always). -/
def State.busByte (s : State) (a : Word) : Byte :=
  match region s.params a with
  | .cell k | .rom k => Memory.read s.mem k
  | .stub v => v
  | .device port => Config.deviceAnswer s.deviceCount port

/-- The byte a read of `a` answers where it has no side effect (stored bytes and stubs); `none` in a collaborator's window,
of which R48 fixes nothing. This is the model's read of one byte of memory for frame statements. -/
def State.peek (s : State) (a : Word) : Option Byte :=
  match region s.params a with
  | .cell k | .rom k => some (Memory.read s.mem k)
  | .stub v => some v
  | .device _ => none

/-- One transaction: recorded in order (R49), and counted when it is forwarded to a collaborator (R48). -/
def State.record (s : State) (acc : BusAccess) (fwd : Bool) : State :=
  { s with accesses := s.accesses ++ [acc], deviceCount := s.deviceCount + (if fwd then 1 else 0) }

/-- `MemRead(addr, 1)` (R42): one bus read. -/
def memRead (a : Word) (s : State) : Byte × State :=
  (s.busByte a, s.record (.read a (s.busByte a)) (region s.params a).isDevice)

/-- The stored bytes after a write of `v` at `a`: only a `cell` keeps it (R52, R55, R56, R60, R62). -/
def State.stored (s : State) (a : Word) (v : Byte) : Memory :=
  match region s.params a with
  | .cell k => Memory.write s.mem k v
  | .rom _ | .stub _ | .device _ => s.mem

/-- `MemWrite(addr, 1, v)` (R42): one bus write. What a collaborator does with it is outside the spec (R48, log entry 6). -/
def memWrite (a : Word) (v : Byte) (s : State) : State :=
  { s with mem := s.stored a v }.record (.write a v) (region s.params a).isDevice

/-- Two one-byte reads, the low byte first (R43, D22). -/
def readPair (al ah : Word) (s : State) : Word × State :=
  let l := memRead al s
  let h := memRead ah l.2
  (join h.1 l.1, h.2)

/-- `Read16(addr)` (R43). -/
def read16 (a : Word) (s : State) : Word × State := readPair a (a + 1) s

/-- `Read16ZP(z)` (R44): the high byte's address wraps within page 0. -/
def read16Zp (z : Byte) (s : State) : Word × State := readPair (zext z) (zext (z + 1)) s

/-- `Read16Bug(p)` (R45): the high byte's address wraps within the page of `p`. -/
def read16Bug (p : Word) (s : State) : Word × State := readPair p (join (hi p) (lo p + 1)) s

end Sys2Proof.Machine
end

