-- ==== Sys2Proof/Machine/Flags.lean ====
section
/-! DEFINITION. The flag logic over the status byte (10_state.md R18 to R20) and the ALU (41_execution_loop.md R122). -/

namespace Sys2Proof.Machine

/-- The bits of P (R18). -/
inductive Flag where
  | c | z | i | d | b4 | b5 | v | n
deriving DecidableEq, Repr

/-- `bit(f)` (R18). -/
def Flag.bit : Flag → Nat
  | .c => 0
  | .z => 1
  | .i => 2
  | .d => 3
  | .b4 => 4
  | .b5 => 5
  | .v => 6
  | .n => 7

/-- The byte with the one bit of `f` set. -/
def Flag.mask (f : Flag) : Byte := 1#8 <<< f.bit

/-- Bit `f` of a status byte. -/
def flagOf (p : Byte) (f : Flag) : Bool := p.getLsbD f.bit

/-- A status byte with bit `f` replaced, the other bits unchanged. -/
def putFlag (p : Byte) (f : Flag) (b : Bool) : Byte := (p &&& ~~~f.mask) ||| (if b then f.mask else 0x00)

/-- `flag(f)` (R20). -/
def State.flag (s : State) (f : Flag) : Bool := flagOf s.p f

/-- `set_flag(f, b)` (R20). -/
def State.setFlag (s : State) (f : Flag) (b : Bool) : State := { s with p := putFlag s.p f b }

/-- The status byte after `SetZN(v)` (R20). -/
def putZN (p v : Byte) : Byte := putFlag (putFlag p .z (v == 0x00)) .n (v.getLsbD 7)

/-- `SetZN(v)`, the source's `update_zero_negative` (R20, R27). -/
def State.setZN (s : State) (v : Byte) : State := { s with p := putZN s.p v }

/-- Outputs of the adder (R140). -/
structure Sum where
  result   : Byte
  carry    : Bool
  overflow : Bool
deriving DecidableEq, Repr

/-- `AddC(a, m, c)` (R140): binary whatever `P.D` (R147). -/
def addC (a m : Byte) (c : Bool) : Sum :=
  let s := a.toNat + m.toNat + bitNat c
  let r := BitVec.ofNat 8 s
  { result := r, carry := decide (0xFF < s), overflow := ((a ^^^ r) &&& (m ^^^ r) &&& 0x80) != 0x00 }

/-- `Cmp(reg, m)` (R143): the wrapped difference and the carry (no borrow). -/
def cmpByte (reg m : Byte) : Byte × Bool :=
  (BitVec.ofNat 8 (reg.toNat + 0x100 - m.toNat), decide (m.toNat ≤ reg.toNat))

/-- The four shifts and rotates (R164). -/
inductive ShiftKind where
  | asl | lsr | rol | ror
deriving DecidableEq, Repr

/-- `Shift(kind, v, c)` (R164): the result and the carry-out. -/
def shiftByte (kind : ShiftKind) (v : Byte) (c : Bool) : Byte × Bool :=
  match kind with
  | .asl => (v <<< 1, v.getLsbD 7)
  | .lsr => (v >>> 1, v.getLsbD 0)
  | .rol => ((v <<< 1) ||| BitVec.ofNat 8 (bitNat c), v.getLsbD 7)
  | .ror => ((v >>> 1) ||| (BitVec.ofNat 8 (bitNat c) <<< 7), v.getLsbD 0)

end Sys2Proof.Machine
end

