-- ==== Sys2Proof/Machine/Ops.lean ====
section
/-! DEFINITION. Register updates, the stack, taking an interrupt and returning from one, and raising a fault. -/

namespace Sys2Proof.Machine

def State.setA (s : State) (v : Byte) : State := { s with a := v }
def State.setX (s : State) (v : Byte) : State := { s with x := v }
def State.setY (s : State) (v : Byte) : State := { s with y := v }
def State.setSp (s : State) (v : Byte) : State := { s with sp := v }
def State.setPc (s : State) (v : Word) : State := { s with pc := v }
def State.setP (s : State) (v : Byte) : State := { s with p := v }

/-- The clock driven forward (R21, R116, R247). -/
def State.addClk (s : State) (n : Nat) : State := { s with clk := s.clk + n }

/-- The stack slot SP names, `0x0100 + SP` (20_memory.md R58). -/
def stackAddr (sp : Byte) : Word := join 0x01 sp

/-- `Push(v)` (47_stack_flag_system.md R210). -/
def push (v : Byte) (s : State) : State := (memWrite (stackAddr s.sp) v s).setSp (s.sp - 1)

/-- `Pop()` (47_stack_flag_system.md R211). -/
def pop (s : State) : Byte × State := memRead (stackAddr (s.sp + 1)) (s.setSp (s.sp + 1))

/-- A 16-bit value pushed high byte first (R200, R226, R247). -/
def pushWord (w : Word) (s : State) : State := push (lo w) (push (hi w) s)

/-- A 16-bit value popped low byte first (R201, R227). -/
def popWord (s : State) : Word × State :=
  let l := pop s
  let h := pop l.2
  (join h.1 l.1, h.2)

/-- The NMI vector (60_exceptions.md R243). -/
def nmiVector : Word := 0xFFFA

/-- The reset vector (60_exceptions.md R243). -/
def resetVector : Word := 0xFFFC

/-- The IRQ and BRK vector (60_exceptions.md R243). -/
def irqVector : Word := 0xFFFE

/-- TAKING AN INTERRUPT, shared by NMI, IRQ and BRK (60_exceptions.md R247, 47_stack_flag_system.md R226): push the return
address and a copy of the status byte, set I, load PC from the vector. -/
def takeInterrupt (vec ret : Word) (pushedP : Byte) (s : State) : State :=
  let t := (push pushedP (pushWord ret s)).setFlag .i true
  let v := read16 vec t
  v.2.setPc v.1

/-- `InterruptEntry(vec)` (60_exceptions.md R247): bit 4 clear in the pushed copy only, `INT_CYCLES` added to the clock. -/
def interruptEntry (vec : Word) (s : State) : State :=
  (takeInterrupt vec s.pc (s.p &&& 0xEF) s).addClk s.params.intCycles

/-- RETURNING FROM AN INTERRUPT (60_exceptions.md R251, 47_stack_flag_system.md R227): all eight bits of P, then PC. -/
def returnFromInterrupt (s : State) : State :=
  let p := pop s
  let r := popWord (p.2.setP p.1)
  r.2.setPc r.1

/-- `raise <Fault>` (60_exceptions.md R240): the record is set and nothing else changes. -/
def raise (f : Fault) (s : State) : State := { s with fault := some f }

end Sys2Proof.Machine
end

