-- ==== Sys2Proof/Machine/Operands.lean ====
section
/-! DEFINITION. The addressing-mode resolver, `Load` and `Store` (40_addressing.md), and the shared course of an instruction
(41_execution_loop.md R110 steps 4 to 6). -/

namespace Sys2Proof.Machine

/-- What a meaning answers. -/
abbrev Out := Host.Outcome State Fault Refusal

/-- A location (R90). `immLoc` holds the operand byte itself, which was read with the instruction's other bytes (R94, D40,
DEDUCED, safe, log entry 11). -/
inductive Loc where
  | noLoc
  | accLoc
  | immLoc (v : Byte)
  | memLoc (addr : Word) (crossed : Bool)
  | relLoc (target : Word) (crossed : Bool)
deriving DecidableEq, Repr

/-- Page crossing (R105): the high bytes differ. -/
def crosses (ea base : Word) : Bool := hi ea != hi base

/-- A location `base + index` modulo 65536, with its page-cross report (R99, R100, R103). -/
def indexed (base : Word) (index : Byte) : Loc :=
  .memLoc (base + zext index) (crosses (base + zext index) base)

/-- `Resolve(mode)` (R90, R92 to R104), on a state whose PC is past the operand bytes (R108, log entry 11): the location, and
the state after the pointer reads of R109. -/
def resolve (o : Operand) (s : State) : Loc × State :=
  match o with
  | .imp => (.noLoc, s)
  | .acc => (.accLoc, s)
  | .imm v => (.immLoc v, s)
  | .zp z => (.memLoc (zext z) false, s)
  | .zpx z => (.memLoc (zext (z + s.x)) false, s)
  | .zpy z => (.memLoc (zext (z + s.y)) false, s)
  | .abs a => (.memLoc a false, s)
  | .abx a => (indexed a s.x, s)
  | .aby a => (indexed a s.y, s)
  | .ind p =>
    let r := read16Bug p s
    (.memLoc r.1 false, r.2)
  | .izx b =>
    let r := read16Zp (b + s.x) s
    (.memLoc r.1 false, r.2)
  | .izy z =>
    let r := read16Zp z s
    (indexed r.1 s.y, r.2)
  | .rel o => (.relLoc (s.pc + sext o) (crosses (s.pc + sext o) s.pc), s)

/-- `Load(loc)` (R91). -/
def load (l : Loc) (s : State) : Except Access (Byte × State) :=
  match l with
  | .accLoc => .ok (s.a, s)
  | .immLoc v => .ok (v, s)
  | .memLoc a _ => .ok (memRead a s)
  | .noLoc | .relLoc _ _ => .error .load

/-- `Store(loc, v)` (R91, R106). -/
def store (l : Loc) (v : Byte) (s : State) : Except Access State :=
  match l with
  | .accLoc => .ok (s.setA v)
  | .memLoc a _ => .ok (memWrite a v s)
  | .immLoc _ | .relLoc _ _ | .noLoc => .error .store

/-- What `Execute(op, loc)` gives (R115): the state and the extra cycles it signals, or the contract violation it raises. -/
inductive Effect where
  | done (s : State) (extra : Nat)
  | violation (which : Access)

/-- Extra cycles of an operation that is not a branch: 1 for a `MemLoc` with `crossed = true`, else 0 (R115, R117). -/
def Loc.crossing : Loc → Nat
  | .memLoc _ crossed => bitNat crossed
  | .noLoc | .accLoc | .immLoc _ | .relLoc _ _ => 0

/-- The operation goes on with the loaded byte, or raises. -/
def withLoad (l : Loc) (s : State) (k : Byte → State → Effect) : Effect :=
  match load l s with
  | .ok r => k r.1 r.2
  | .error w => .violation w

/-- The operation goes on after the store, or raises. -/
def withStore (l : Loc) (v : Byte) (s : State) (k : State → Effect) : Effect :=
  match store l v s with
  | .ok t => k t
  | .error w => .violation w

/-- The read-modify-write pattern (44_logic_shift.md R169): one `Load`, the new value (and what the operation writes before
the store), one `Store`, `SetZN` of the new value. -/
def readModifyWrite (l : Loc) (s : State) (f : Byte → State → Byte × State) : Effect :=
  withLoad l s fun v t =>
    withStore l (f v t).1 (f v t).2 fun u => .done (u.setZN (f v t).1) l.crossing

/-- Cycles of an instruction that signals `e` extra cycles (R116): `d.cycles + (d.extra == 1 ? e : 0)`. -/
def Descriptor.cost (d : Descriptor) (e : Nat) : Nat := d.cycles + (if d.extra then e else 0)

/-- The same, from the table's row at the instruction's opcode. -/
def cost (i : Instr) (e : Nat) : Nat := (descriptor i.opcode).elim 0 fun d => Descriptor.cost d e

/-- Steps (4) to (6) of R110 for an instruction whose bytes have been fetched: resolve, execute, account. A contract
violation is recorded in the state that `Resolve` left (R242, log entry 13). -/
def perform (i : Instr) (f : Loc → State → Effect) (s : State) : Out :=
  let r := resolve i.operand s
  match f r.1 r.2 with
  | .done t e => .next (t.addClk (cost i e))
  | .violation w => .next (raise (.contractViolation w) r.2)

end Sys2Proof.Machine
end

