-- ==== Sys2Proof/Machine/Arithmetic.lean ====
section
/-! DEFINITION. Add, subtract and compare (43_arithmetic_compare.md). -/

namespace Sys2Proof.Machine

/-- The sum of the accumulator, a byte and the carry, with its flags, into the accumulator (R141, R142). -/
def addToA (m : Byte) (s : State) : State :=
  let r := addC s.a m (s.flag .c)
  (((s.setFlag .c r.carry).setFlag .v r.overflow).setZN r.result).setA r.result

/-- R141. -/
def opAdc (l : Loc) (s : State) : Effect := withLoad l s fun m t => .done (addToA m t) l.crossing

/-- R142: the operand bitwise complemented. -/
def opSbc (l : Loc) (s : State) : Effect := withLoad l s fun m t => .done (addToA (m ^^^ 0xFF) t) l.crossing

/-- The flags of a compare (R144 to R146). -/
def setCompare (reg m : Byte) (s : State) : State := (s.setFlag .c (cmpByte reg m).2).setZN (cmpByte reg m).1

/-- R144. -/
def opCmp (l : Loc) (s : State) : Effect := withLoad l s fun m t => .done (setCompare t.a m t) l.crossing

/-- R145. -/
def opCpx (l : Loc) (s : State) : Effect := withLoad l s fun m t => .done (setCompare t.x m t) l.crossing

/-- R146. -/
def opCpy (l : Loc) (s : State) : Effect := withLoad l s fun m t => .done (setCompare t.y m t) l.crossing

/-- 61 ADC IZX (R141, R102). -/
def execAdcIzx (z : Byte) (s : State) : Out := perform (.adcIzx z) opAdc s
/-- 65 ADC ZP (R141, R95). -/
def execAdcZp (z : Byte) (s : State) : Out := perform (.adcZp z) opAdc s
/-- 69 ADC IMM (R141, R94). -/
def execAdcImm (v : Byte) (s : State) : Out := perform (.adcImm v) opAdc s
/-- 6D ADC ABS (R141, R98). -/
def execAdcAbs (a : Word) (s : State) : Out := perform (.adcAbs a) opAdc s
/-- 71 ADC IZY (R141, R103). -/
def execAdcIzy (z : Byte) (s : State) : Out := perform (.adcIzy z) opAdc s
/-- 75 ADC ZPX (R141, R96). -/
def execAdcZpx (z : Byte) (s : State) : Out := perform (.adcZpx z) opAdc s
/-- 79 ADC ABY (R141, R100). -/
def execAdcAby (a : Word) (s : State) : Out := perform (.adcAby a) opAdc s
/-- 7D ADC ABX (R141, R99). -/
def execAdcAbx (a : Word) (s : State) : Out := perform (.adcAbx a) opAdc s

/-- E1 SBC IZX (R142, R102). -/
def execSbcIzx (z : Byte) (s : State) : Out := perform (.sbcIzx z) opSbc s
/-- E5 SBC ZP (R142, R95). -/
def execSbcZp (z : Byte) (s : State) : Out := perform (.sbcZp z) opSbc s
/-- E9 SBC IMM (R142, R94). -/
def execSbcImm (v : Byte) (s : State) : Out := perform (.sbcImm v) opSbc s
/-- ED SBC ABS (R142, R98). -/
def execSbcAbs (a : Word) (s : State) : Out := perform (.sbcAbs a) opSbc s
/-- F1 SBC IZY (R142, R103). -/
def execSbcIzy (z : Byte) (s : State) : Out := perform (.sbcIzy z) opSbc s
/-- F5 SBC ZPX (R142, R96). -/
def execSbcZpx (z : Byte) (s : State) : Out := perform (.sbcZpx z) opSbc s
/-- F9 SBC ABY (R142, R100). -/
def execSbcAby (a : Word) (s : State) : Out := perform (.sbcAby a) opSbc s
/-- FD SBC ABX (R142, R99). -/
def execSbcAbx (a : Word) (s : State) : Out := perform (.sbcAbx a) opSbc s

/-- C1 CMP IZX (R144, R102). -/
def execCmpIzx (z : Byte) (s : State) : Out := perform (.cmpIzx z) opCmp s
/-- C5 CMP ZP (R144, R95). -/
def execCmpZp (z : Byte) (s : State) : Out := perform (.cmpZp z) opCmp s
/-- C9 CMP IMM (R144, R94). -/
def execCmpImm (v : Byte) (s : State) : Out := perform (.cmpImm v) opCmp s
/-- CD CMP ABS (R144, R98). -/
def execCmpAbs (a : Word) (s : State) : Out := perform (.cmpAbs a) opCmp s
/-- D1 CMP IZY (R144, R103). -/
def execCmpIzy (z : Byte) (s : State) : Out := perform (.cmpIzy z) opCmp s
/-- D5 CMP ZPX (R144, R96). -/
def execCmpZpx (z : Byte) (s : State) : Out := perform (.cmpZpx z) opCmp s
/-- D9 CMP ABY (R144, R100). -/
def execCmpAby (a : Word) (s : State) : Out := perform (.cmpAby a) opCmp s
/-- DD CMP ABX (R144, R99). -/
def execCmpAbx (a : Word) (s : State) : Out := perform (.cmpAbx a) opCmp s

/-- E0 CPX IMM (R145, R94). -/
def execCpxImm (v : Byte) (s : State) : Out := perform (.cpxImm v) opCpx s
/-- E4 CPX ZP (R145, R95). -/
def execCpxZp (z : Byte) (s : State) : Out := perform (.cpxZp z) opCpx s
/-- EC CPX ABS (R145, R98). -/
def execCpxAbs (a : Word) (s : State) : Out := perform (.cpxAbs a) opCpx s

/-- C0 CPY IMM (R146, R94). -/
def execCpyImm (v : Byte) (s : State) : Out := perform (.cpyImm v) opCpy s
/-- C4 CPY ZP (R146, R95). -/
def execCpyZp (z : Byte) (s : State) : Out := perform (.cpyZp z) opCpy s
/-- CC CPY ABS (R146, R98). -/
def execCpyAbs (a : Word) (s : State) : Out := perform (.cpyAbs a) opCpy s

end Sys2Proof.Machine
end

