-- ==== Sys2Proof/Machine/Branch.lean ====
section
/-! DEFINITION. Branches, jumps, subroutine call and return (46_branch_jump.md). -/

namespace Sys2Proof.Machine

/-- `Branch(f, want)` (R190), with the extra cycles of R118. A location that is no `RelLoc` is a malformed table (log entry
13). -/
def branch (f : Flag) (want : Bool) (l : Loc) (s : State) : Effect :=
  match l with
  | .relLoc t crossed => if s.flag f = want then .done (s.setPc t) (1 + bitNat crossed) else .done s 0
  | .noLoc | .accLoc | .immLoc _ | .memLoc _ _ => .violation .load

/-- R191. -/
def opBpl (l : Loc) (s : State) : Effect := branch .n false l s

/-- R192. -/
def opBmi (l : Loc) (s : State) : Effect := branch .n true l s

/-- R193. -/
def opBvc (l : Loc) (s : State) : Effect := branch .v false l s

/-- R194. -/
def opBvs (l : Loc) (s : State) : Effect := branch .v true l s

/-- R195. -/
def opBcc (l : Loc) (s : State) : Effect := branch .c false l s

/-- R196. -/
def opBcs (l : Loc) (s : State) : Effect := branch .c true l s

/-- R197. -/
def opBne (l : Loc) (s : State) : Effect := branch .z false l s

/-- R198. -/
def opBeq (l : Loc) (s : State) : Effect := branch .z true l s

/-- A jump goes on with the effective address of a `MemLoc`, which it does not load from (R199, R200). -/
def withTarget (l : Loc) (k : Word → Effect) : Effect :=
  match l with
  | .memLoc a _ => k a
  | .noLoc | .accLoc | .immLoc _ | .relLoc _ _ => .violation .load

/-- R199. -/
def opJmp (l : Loc) (s : State) : Effect := withTarget l fun a => .done (s.setPc a) l.crossing

/-- R200. -/
def opJsr (l : Loc) (s : State) : Effect :=
  withTarget l fun a => .done ((pushWord (s.pc - 1) s).setPc a) l.crossing

/-- R201. -/
def opRts (l : Loc) (s : State) : Effect := .done ((popWord s).2.setPc ((popWord s).1 + 1)) l.crossing

/-- 10 BPL REL (R191, R104). -/
def execBpl (o : Byte) (s : State) : Out := perform (.bpl o) opBpl s

/-- 30 BMI REL (R192, R104). -/
def execBmi (o : Byte) (s : State) : Out := perform (.bmi o) opBmi s

/-- 50 BVC REL (R193, R104). -/
def execBvc (o : Byte) (s : State) : Out := perform (.bvc o) opBvc s

/-- 70 BVS REL (R194, R104). -/
def execBvs (o : Byte) (s : State) : Out := perform (.bvs o) opBvs s

/-- 90 BCC REL (R195, R104). -/
def execBcc (o : Byte) (s : State) : Out := perform (.bcc o) opBcc s

/-- B0 BCS REL (R196, R104). -/
def execBcs (o : Byte) (s : State) : Out := perform (.bcs o) opBcs s

/-- D0 BNE REL (R197, R104). -/
def execBne (o : Byte) (s : State) : Out := perform (.bne o) opBne s

/-- F0 BEQ REL (R198, R104). -/
def execBeq (o : Byte) (s : State) : Out := perform (.beq o) opBeq s

/-- 4C JMP ABS (R199, R98). -/
def execJmpAbs (a : Word) (s : State) : Out := perform (.jmpAbs a) opJmp s
/-- 6C JMP IND (R199, R101). -/
def execJmpInd (a : Word) (s : State) : Out := perform (.jmpInd a) opJmp s

/-- 20 JSR ABS (R200, R98). -/
def execJsr (a : Word) (s : State) : Out := perform (.jsr a) opJsr s

/-- 60 RTS IMP (R201, R92). -/
def execRts (s : State) : Out := perform .rts opRts s

end Sys2Proof.Machine
end

