-- ==== Sys2Proof/Machine/IncDec.lean ====
section
/-! DEFINITION. Increment and decrement (45_incdec.md). -/

namespace Sys2Proof.Machine

/-- R180. -/
def opInc (l : Loc) (s : State) : Effect := readModifyWrite l s fun v t => (v + 1, t)

/-- R181. -/
def opDec (l : Loc) (s : State) : Effect := readModifyWrite l s fun v t => (v - 1, t)

/-- R182. -/
def opInx (l : Loc) (s : State) : Effect := .done ((s.setX (s.x + 1)).setZN (s.x + 1)) l.crossing

/-- R183. -/
def opIny (l : Loc) (s : State) : Effect := .done ((s.setY (s.y + 1)).setZN (s.y + 1)) l.crossing

/-- R184. -/
def opDex (l : Loc) (s : State) : Effect := .done ((s.setX (s.x - 1)).setZN (s.x - 1)) l.crossing

/-- R185. -/
def opDey (l : Loc) (s : State) : Effect := .done ((s.setY (s.y - 1)).setZN (s.y - 1)) l.crossing

/-- E6 INC ZP (R180, R95). -/
def execIncZp (z : Byte) (s : State) : Out := perform (.incZp z) opInc s
/-- EE INC ABS (R180, R98). -/
def execIncAbs (a : Word) (s : State) : Out := perform (.incAbs a) opInc s
/-- F6 INC ZPX (R180, R96). -/
def execIncZpx (z : Byte) (s : State) : Out := perform (.incZpx z) opInc s
/-- FE INC ABX (R180, R99). -/
def execIncAbx (a : Word) (s : State) : Out := perform (.incAbx a) opInc s

/-- C6 DEC ZP (R181, R95). -/
def execDecZp (z : Byte) (s : State) : Out := perform (.decZp z) opDec s
/-- CE DEC ABS (R181, R98). -/
def execDecAbs (a : Word) (s : State) : Out := perform (.decAbs a) opDec s
/-- D6 DEC ZPX (R181, R96). -/
def execDecZpx (z : Byte) (s : State) : Out := perform (.decZpx z) opDec s
/-- DE DEC ABX (R181, R99). -/
def execDecAbx (a : Word) (s : State) : Out := perform (.decAbx a) opDec s

/-- E8 INX IMP (R182, R92). -/
def execInx (s : State) : Out := perform .inx opInx s

/-- C8 INY IMP (R183, R92). -/
def execIny (s : State) : Out := perform .iny opIny s

/-- CA DEX IMP (R184, R92). -/
def execDex (s : State) : Out := perform .dex opDex s

/-- 88 DEY IMP (R185, R92). -/
def execDey (s : State) : Out := perform .dey opDey s

end Sys2Proof.Machine
end

