-- ==== Sys2Proof/Machine/LoadStore.lean ====
section
/-! DEFINITION. Loads, stores and register transfers (42_load_store_transfer.md). -/

namespace Sys2Proof.Machine

/-- R125. -/
def opLda (l : Loc) (s : State) : Effect := withLoad l s fun v t => .done ((t.setA v).setZN v) l.crossing

/-- R126. -/
def opLdx (l : Loc) (s : State) : Effect := withLoad l s fun v t => .done ((t.setX v).setZN v) l.crossing

/-- R127. -/
def opLdy (l : Loc) (s : State) : Effect := withLoad l s fun v t => .done ((t.setY v).setZN v) l.crossing

/-- R128. -/
def opSta (l : Loc) (s : State) : Effect := withStore l s.a s fun t => .done t l.crossing

/-- R129. -/
def opStx (l : Loc) (s : State) : Effect := withStore l s.x s fun t => .done t l.crossing

/-- R130. -/
def opSty (l : Loc) (s : State) : Effect := withStore l s.y s fun t => .done t l.crossing

/-- R131. -/
def opTax (l : Loc) (s : State) : Effect := .done ((s.setX s.a).setZN s.a) l.crossing

/-- R132. -/
def opTay (l : Loc) (s : State) : Effect := .done ((s.setY s.a).setZN s.a) l.crossing

/-- R133. -/
def opTxa (l : Loc) (s : State) : Effect := .done ((s.setA s.x).setZN s.x) l.crossing

/-- R134. -/
def opTya (l : Loc) (s : State) : Effect := .done ((s.setA s.y).setZN s.y) l.crossing

/-- A1 LDA IZX (R125, R102). -/
def execLdaIzx (z : Byte) (s : State) : Out := perform (.ldaIzx z) opLda s
/-- A5 LDA ZP (R125, R95). -/
def execLdaZp (z : Byte) (s : State) : Out := perform (.ldaZp z) opLda s
/-- A9 LDA IMM (R125, R94). -/
def execLdaImm (v : Byte) (s : State) : Out := perform (.ldaImm v) opLda s
/-- AD LDA ABS (R125, R98). -/
def execLdaAbs (a : Word) (s : State) : Out := perform (.ldaAbs a) opLda s
/-- B1 LDA IZY (R125, R103). -/
def execLdaIzy (z : Byte) (s : State) : Out := perform (.ldaIzy z) opLda s
/-- B5 LDA ZPX (R125, R96). -/
def execLdaZpx (z : Byte) (s : State) : Out := perform (.ldaZpx z) opLda s
/-- B9 LDA ABY (R125, R100). -/
def execLdaAby (a : Word) (s : State) : Out := perform (.ldaAby a) opLda s
/-- BD LDA ABX (R125, R99). -/
def execLdaAbx (a : Word) (s : State) : Out := perform (.ldaAbx a) opLda s

/-- A2 LDX IMM (R126, R94). -/
def execLdxImm (v : Byte) (s : State) : Out := perform (.ldxImm v) opLdx s
/-- A6 LDX ZP (R126, R95). -/
def execLdxZp (z : Byte) (s : State) : Out := perform (.ldxZp z) opLdx s
/-- AE LDX ABS (R126, R98). -/
def execLdxAbs (a : Word) (s : State) : Out := perform (.ldxAbs a) opLdx s
/-- B6 LDX ZPY (R126, R97). -/
def execLdxZpy (z : Byte) (s : State) : Out := perform (.ldxZpy z) opLdx s
/-- BE LDX ABY (R126, R100). -/
def execLdxAby (a : Word) (s : State) : Out := perform (.ldxAby a) opLdx s

/-- A0 LDY IMM (R127, R94). -/
def execLdyImm (v : Byte) (s : State) : Out := perform (.ldyImm v) opLdy s
/-- A4 LDY ZP (R127, R95). -/
def execLdyZp (z : Byte) (s : State) : Out := perform (.ldyZp z) opLdy s
/-- AC LDY ABS (R127, R98). -/
def execLdyAbs (a : Word) (s : State) : Out := perform (.ldyAbs a) opLdy s
/-- B4 LDY ZPX (R127, R96). -/
def execLdyZpx (z : Byte) (s : State) : Out := perform (.ldyZpx z) opLdy s
/-- BC LDY ABX (R127, R99). -/
def execLdyAbx (a : Word) (s : State) : Out := perform (.ldyAbx a) opLdy s

/-- 81 STA IZX (R128, R102). -/
def execStaIzx (z : Byte) (s : State) : Out := perform (.staIzx z) opSta s
/-- 85 STA ZP (R128, R95). -/
def execStaZp (z : Byte) (s : State) : Out := perform (.staZp z) opSta s
/-- 8D STA ABS (R128, R98). -/
def execStaAbs (a : Word) (s : State) : Out := perform (.staAbs a) opSta s
/-- 91 STA IZY (R128, R103). -/
def execStaIzy (z : Byte) (s : State) : Out := perform (.staIzy z) opSta s
/-- 95 STA ZPX (R128, R96). -/
def execStaZpx (z : Byte) (s : State) : Out := perform (.staZpx z) opSta s
/-- 99 STA ABY (R128, R100). -/
def execStaAby (a : Word) (s : State) : Out := perform (.staAby a) opSta s
/-- 9D STA ABX (R128, R99). -/
def execStaAbx (a : Word) (s : State) : Out := perform (.staAbx a) opSta s

/-- 86 STX ZP (R129, R95). -/
def execStxZp (z : Byte) (s : State) : Out := perform (.stxZp z) opStx s
/-- 8E STX ABS (R129, R98). -/
def execStxAbs (a : Word) (s : State) : Out := perform (.stxAbs a) opStx s
/-- 96 STX ZPY (R129, R97). -/
def execStxZpy (z : Byte) (s : State) : Out := perform (.stxZpy z) opStx s

/-- 84 STY ZP (R130, R95). -/
def execStyZp (z : Byte) (s : State) : Out := perform (.styZp z) opSty s
/-- 8C STY ABS (R130, R98). -/
def execStyAbs (a : Word) (s : State) : Out := perform (.styAbs a) opSty s
/-- 94 STY ZPX (R130, R96). -/
def execStyZpx (z : Byte) (s : State) : Out := perform (.styZpx z) opSty s

/-- AA TAX IMP (R131, R92). -/
def execTax (s : State) : Out := perform .tax opTax s

/-- A8 TAY IMP (R132, R92). -/
def execTay (s : State) : Out := perform .tay opTay s

/-- 8A TXA IMP (R133, R92). -/
def execTxa (s : State) : Out := perform .txa opTxa s

/-- 98 TYA IMP (R134, R92). -/
def execTya (s : State) : Out := perform .tya opTya s

end Sys2Proof.Machine
end

