-- ==== Sys2Proof/Machine/Logic.lean ====
section
/-! DEFINITION. Logic, bit test, shifts and rotates (44_logic_shift.md). -/

namespace Sys2Proof.Machine

/-- R160. -/
def opAnd (l : Loc) (s : State) : Effect :=
  withLoad l s fun m t => .done ((t.setA (t.a &&& m)).setZN (t.a &&& m)) l.crossing

/-- R161. -/
def opOra (l : Loc) (s : State) : Effect :=
  withLoad l s fun m t => .done ((t.setA (t.a ||| m)).setZN (t.a ||| m)) l.crossing

/-- R162. -/
def opEor (l : Loc) (s : State) : Effect :=
  withLoad l s fun m t => .done ((t.setA (t.a ^^^ m)).setZN (t.a ^^^ m)) l.crossing

/-- The flags of BIT (R163): Z from A and M, N and V from bits 7 and 6 of M. -/
def setBitTest (m : Byte) (s : State) : State :=
  ((s.setFlag .z ((s.a &&& m) == 0x00)).setFlag .n (m.getLsbD 7)).setFlag .v (m.getLsbD 6)

/-- R163. -/
def opBit (l : Loc) (s : State) : Effect := withLoad l s fun m t => .done (setBitTest m t) l.crossing

/-- A shift or rotate (R164 to R168): the carry-in is read before C is written, C before the store. -/
def shiftValue (kind : ShiftKind) (v : Byte) (s : State) : Byte × State :=
  let r := shiftByte kind v (s.flag .c)
  (r.1, s.setFlag .c r.2)

/-- R165. -/
def opAsl (l : Loc) (s : State) : Effect := readModifyWrite l s (shiftValue .asl)

/-- R166. -/
def opLsr (l : Loc) (s : State) : Effect := readModifyWrite l s (shiftValue .lsr)

/-- R167. -/
def opRol (l : Loc) (s : State) : Effect := readModifyWrite l s (shiftValue .rol)

/-- R168. -/
def opRor (l : Loc) (s : State) : Effect := readModifyWrite l s (shiftValue .ror)

/-- 21 AND IZX (R160, R102). -/
def execAndIzx (z : Byte) (s : State) : Out := perform (.andIzx z) opAnd s
/-- 25 AND ZP (R160, R95). -/
def execAndZp (z : Byte) (s : State) : Out := perform (.andZp z) opAnd s
/-- 29 AND IMM (R160, R94). -/
def execAndImm (v : Byte) (s : State) : Out := perform (.andImm v) opAnd s
/-- 2D AND ABS (R160, R98). -/
def execAndAbs (a : Word) (s : State) : Out := perform (.andAbs a) opAnd s
/-- 31 AND IZY (R160, R103). -/
def execAndIzy (z : Byte) (s : State) : Out := perform (.andIzy z) opAnd s
/-- 35 AND ZPX (R160, R96). -/
def execAndZpx (z : Byte) (s : State) : Out := perform (.andZpx z) opAnd s
/-- 39 AND ABY (R160, R100). -/
def execAndAby (a : Word) (s : State) : Out := perform (.andAby a) opAnd s
/-- 3D AND ABX (R160, R99). -/
def execAndAbx (a : Word) (s : State) : Out := perform (.andAbx a) opAnd s

/-- 01 ORA IZX (R161, R102). -/
def execOraIzx (z : Byte) (s : State) : Out := perform (.oraIzx z) opOra s
/-- 05 ORA ZP (R161, R95). -/
def execOraZp (z : Byte) (s : State) : Out := perform (.oraZp z) opOra s
/-- 09 ORA IMM (R161, R94). -/
def execOraImm (v : Byte) (s : State) : Out := perform (.oraImm v) opOra s
/-- 0D ORA ABS (R161, R98). -/
def execOraAbs (a : Word) (s : State) : Out := perform (.oraAbs a) opOra s
/-- 11 ORA IZY (R161, R103). -/
def execOraIzy (z : Byte) (s : State) : Out := perform (.oraIzy z) opOra s
/-- 15 ORA ZPX (R161, R96). -/
def execOraZpx (z : Byte) (s : State) : Out := perform (.oraZpx z) opOra s
/-- 19 ORA ABY (R161, R100). -/
def execOraAby (a : Word) (s : State) : Out := perform (.oraAby a) opOra s
/-- 1D ORA ABX (R161, R99). -/
def execOraAbx (a : Word) (s : State) : Out := perform (.oraAbx a) opOra s

/-- 41 EOR IZX (R162, R102). -/
def execEorIzx (z : Byte) (s : State) : Out := perform (.eorIzx z) opEor s
/-- 45 EOR ZP (R162, R95). -/
def execEorZp (z : Byte) (s : State) : Out := perform (.eorZp z) opEor s
/-- 49 EOR IMM (R162, R94). -/
def execEorImm (v : Byte) (s : State) : Out := perform (.eorImm v) opEor s
/-- 4D EOR ABS (R162, R98). -/
def execEorAbs (a : Word) (s : State) : Out := perform (.eorAbs a) opEor s
/-- 51 EOR IZY (R162, R103). -/
def execEorIzy (z : Byte) (s : State) : Out := perform (.eorIzy z) opEor s
/-- 55 EOR ZPX (R162, R96). -/
def execEorZpx (z : Byte) (s : State) : Out := perform (.eorZpx z) opEor s
/-- 59 EOR ABY (R162, R100). -/
def execEorAby (a : Word) (s : State) : Out := perform (.eorAby a) opEor s
/-- 5D EOR ABX (R162, R99). -/
def execEorAbx (a : Word) (s : State) : Out := perform (.eorAbx a) opEor s

/-- 24 BIT ZP (R163, R95). -/
def execBitZp (z : Byte) (s : State) : Out := perform (.bitZp z) opBit s
/-- 2C BIT ABS (R163, R98). -/
def execBitAbs (a : Word) (s : State) : Out := perform (.bitAbs a) opBit s

/-- 06 ASL ZP (R165, R95). -/
def execAslZp (z : Byte) (s : State) : Out := perform (.aslZp z) opAsl s
/-- 0A ASL ACC (R165, R93). -/
def execAslAcc (s : State) : Out := perform .aslAcc opAsl s
/-- 0E ASL ABS (R165, R98). -/
def execAslAbs (a : Word) (s : State) : Out := perform (.aslAbs a) opAsl s
/-- 16 ASL ZPX (R165, R96). -/
def execAslZpx (z : Byte) (s : State) : Out := perform (.aslZpx z) opAsl s
/-- 1E ASL ABX (R165, R99). -/
def execAslAbx (a : Word) (s : State) : Out := perform (.aslAbx a) opAsl s

/-- 46 LSR ZP (R166, R95). -/
def execLsrZp (z : Byte) (s : State) : Out := perform (.lsrZp z) opLsr s
/-- 4A LSR ACC (R166, R93). -/
def execLsrAcc (s : State) : Out := perform .lsrAcc opLsr s
/-- 4E LSR ABS (R166, R98). -/
def execLsrAbs (a : Word) (s : State) : Out := perform (.lsrAbs a) opLsr s
/-- 56 LSR ZPX (R166, R96). -/
def execLsrZpx (z : Byte) (s : State) : Out := perform (.lsrZpx z) opLsr s
/-- 5E LSR ABX (R166, R99). -/
def execLsrAbx (a : Word) (s : State) : Out := perform (.lsrAbx a) opLsr s

/-- 26 ROL ZP (R167, R95). -/
def execRolZp (z : Byte) (s : State) : Out := perform (.rolZp z) opRol s
/-- 2A ROL ACC (R167, R93). -/
def execRolAcc (s : State) : Out := perform .rolAcc opRol s
/-- 2E ROL ABS (R167, R98). -/
def execRolAbs (a : Word) (s : State) : Out := perform (.rolAbs a) opRol s
/-- 36 ROL ZPX (R167, R96). -/
def execRolZpx (z : Byte) (s : State) : Out := perform (.rolZpx z) opRol s
/-- 3E ROL ABX (R167, R99). -/
def execRolAbx (a : Word) (s : State) : Out := perform (.rolAbx a) opRol s

/-- 66 ROR ZP (R168, R95). -/
def execRorZp (z : Byte) (s : State) : Out := perform (.rorZp z) opRor s
/-- 6A ROR ACC (R168, R93). -/
def execRorAcc (s : State) : Out := perform .rorAcc opRor s
/-- 6E ROR ABS (R168, R98). -/
def execRorAbs (a : Word) (s : State) : Out := perform (.rorAbs a) opRor s
/-- 76 ROR ZPX (R168, R96). -/
def execRorZpx (z : Byte) (s : State) : Out := perform (.rorZpx z) opRor s
/-- 7E ROR ABX (R168, R99). -/
def execRorAbx (a : Word) (s : State) : Out := perform (.rorAbx a) opRor s

end Sys2Proof.Machine
end

