-- ==== Sys2Proof/Machine/System.lean ====
section
/-! DEFINITION. Stack, flag-control and system instructions (47_stack_flag_system.md). -/

namespace Sys2Proof.Machine

/-- R212. -/
def opPha (l : Loc) (s : State) : Effect := .done (push s.a s) l.crossing

/-- R213. -/
def opPla (l : Loc) (s : State) : Effect := .done (((pop s).2.setA (pop s).1).setZN (pop s).1) l.crossing

/-- R214: all eight bits as stored. -/
def opPhp (l : Loc) (s : State) : Effect := .done (push s.p s) l.crossing

/-- R215: all eight bits. -/
def opPlp (l : Loc) (s : State) : Effect := .done ((pop s).2.setP (pop s).1) l.crossing

/-- R216: no flag. -/
def opTxs (l : Loc) (s : State) : Effect := .done (s.setSp s.x) l.crossing

/-- R217. -/
def opTsx (l : Loc) (s : State) : Effect := .done ((s.setX s.sp).setZN s.sp) l.crossing

/-- R218. -/
def opClc (l : Loc) (s : State) : Effect := .done (s.setFlag .c false) l.crossing

/-- R219. -/
def opSec (l : Loc) (s : State) : Effect := .done (s.setFlag .c true) l.crossing

/-- R220. -/
def opCli (l : Loc) (s : State) : Effect := .done (s.setFlag .i false) l.crossing

/-- R221. -/
def opSei (l : Loc) (s : State) : Effect := .done (s.setFlag .i true) l.crossing

/-- R222. -/
def opClv (l : Loc) (s : State) : Effect := .done (s.setFlag .v false) l.crossing

/-- R223. -/
def opCld (l : Loc) (s : State) : Effect := .done (s.setFlag .d false) l.crossing

/-- R224. -/
def opSed (l : Loc) (s : State) : Effect := .done (s.setFlag .d true) l.crossing

/-- R225. -/
def opNop (l : Loc) (s : State) : Effect := .done s l.crossing

/-- R226: the return address skips one byte, bit 4 is set in the pushed copy only. -/
def opBrk (l : Loc) (s : State) : Effect :=
  .done (takeInterrupt irqVector (s.pc + 1) (s.p ||| 0x10) s) l.crossing

/-- R227. -/
def opRti (l : Loc) (s : State) : Effect := .done (returnFromInterrupt s) l.crossing

/-- 48 PHA IMP (R212, R92). -/
def execPha (s : State) : Out := perform .pha opPha s

/-- 68 PLA IMP (R213, R92). -/
def execPla (s : State) : Out := perform .pla opPla s

/-- 08 PHP IMP (R214, R92). -/
def execPhp (s : State) : Out := perform .php opPhp s

/-- 28 PLP IMP (R215, R92). -/
def execPlp (s : State) : Out := perform .plp opPlp s

/-- 9A TXS IMP (R216, R92). -/
def execTxs (s : State) : Out := perform .txs opTxs s

/-- BA TSX IMP (R217, R92). -/
def execTsx (s : State) : Out := perform .tsx opTsx s

/-- 18 CLC IMP (R218, R92). -/
def execClc (s : State) : Out := perform .clc opClc s

/-- 38 SEC IMP (R219, R92). -/
def execSec (s : State) : Out := perform .sec opSec s

/-- 58 CLI IMP (R220, R92). -/
def execCli (s : State) : Out := perform .cli opCli s

/-- 78 SEI IMP (R221, R92). -/
def execSei (s : State) : Out := perform .sei opSei s

/-- B8 CLV IMP (R222, R92). -/
def execClv (s : State) : Out := perform .clv opClv s

/-- D8 CLD IMP (R223, R92). -/
def execCld (s : State) : Out := perform .cld opCld s

/-- F8 SED IMP (R224, R92). -/
def execSed (s : State) : Out := perform .sed opSed s

/-- EA NOP IMP (R225, R92). -/
def execNop (s : State) : Out := perform .nop opNop s

/-- 00 BRK IMP (R226, R92). -/
def execBrk (s : State) : Out := perform .brk opBrk s

/-- 40 RTI IMP (R227, R92). -/
def execRti (s : State) : Out := perform .rti opRti s

end Sys2Proof.Machine
end

