-- ==== Sys2Proof/Machine/Dispatch.lean ====
section
/-! DEFINITION. One arm for each instruction (41_execution_loop.md R115). -/

namespace Sys2Proof.Machine

def exec (i : Instr) (s : State) : Host.Outcome State Fault Refusal :=
  match i with
  | .adcIzx z => Sys2Proof.Machine.execAdcIzx z s
  | .adcZp z => Sys2Proof.Machine.execAdcZp z s
  | .adcImm v => Sys2Proof.Machine.execAdcImm v s
  | .adcAbs a => Sys2Proof.Machine.execAdcAbs a s
  | .adcIzy z => Sys2Proof.Machine.execAdcIzy z s
  | .adcZpx z => Sys2Proof.Machine.execAdcZpx z s
  | .adcAby a => Sys2Proof.Machine.execAdcAby a s
  | .adcAbx a => Sys2Proof.Machine.execAdcAbx a s
  | .andIzx z => Sys2Proof.Machine.execAndIzx z s
  | .andZp z => Sys2Proof.Machine.execAndZp z s
  | .andImm v => Sys2Proof.Machine.execAndImm v s
  | .andAbs a => Sys2Proof.Machine.execAndAbs a s
  | .andIzy z => Sys2Proof.Machine.execAndIzy z s
  | .andZpx z => Sys2Proof.Machine.execAndZpx z s
  | .andAby a => Sys2Proof.Machine.execAndAby a s
  | .andAbx a => Sys2Proof.Machine.execAndAbx a s
  | .aslZp z => Sys2Proof.Machine.execAslZp z s
  | .aslAcc => Sys2Proof.Machine.execAslAcc s
  | .aslAbs a => Sys2Proof.Machine.execAslAbs a s
  | .aslZpx z => Sys2Proof.Machine.execAslZpx z s
  | .aslAbx a => Sys2Proof.Machine.execAslAbx a s
  | .bcc o => Sys2Proof.Machine.execBcc o s
  | .bcs o => Sys2Proof.Machine.execBcs o s
  | .beq o => Sys2Proof.Machine.execBeq o s
  | .bitZp z => Sys2Proof.Machine.execBitZp z s
  | .bitAbs a => Sys2Proof.Machine.execBitAbs a s
  | .bmi o => Sys2Proof.Machine.execBmi o s
  | .bne o => Sys2Proof.Machine.execBne o s
  | .bpl o => Sys2Proof.Machine.execBpl o s
  | .brk => Sys2Proof.Machine.execBrk s
  | .bvc o => Sys2Proof.Machine.execBvc o s
  | .bvs o => Sys2Proof.Machine.execBvs o s
  | .clc => Sys2Proof.Machine.execClc s
  | .cld => Sys2Proof.Machine.execCld s
  | .cli => Sys2Proof.Machine.execCli s
  | .clv => Sys2Proof.Machine.execClv s
  | .cmpIzx z => Sys2Proof.Machine.execCmpIzx z s
  | .cmpZp z => Sys2Proof.Machine.execCmpZp z s
  | .cmpImm v => Sys2Proof.Machine.execCmpImm v s
  | .cmpAbs a => Sys2Proof.Machine.execCmpAbs a s
  | .cmpIzy z => Sys2Proof.Machine.execCmpIzy z s
  | .cmpZpx z => Sys2Proof.Machine.execCmpZpx z s
  | .cmpAby a => Sys2Proof.Machine.execCmpAby a s
  | .cmpAbx a => Sys2Proof.Machine.execCmpAbx a s
  | .cpxImm v => Sys2Proof.Machine.execCpxImm v s
  | .cpxZp z => Sys2Proof.Machine.execCpxZp z s
  | .cpxAbs a => Sys2Proof.Machine.execCpxAbs a s
  | .cpyImm v => Sys2Proof.Machine.execCpyImm v s
  | .cpyZp z => Sys2Proof.Machine.execCpyZp z s
  | .cpyAbs a => Sys2Proof.Machine.execCpyAbs a s
  | .decZp z => Sys2Proof.Machine.execDecZp z s
  | .decAbs a => Sys2Proof.Machine.execDecAbs a s
  | .decZpx z => Sys2Proof.Machine.execDecZpx z s
  | .decAbx a => Sys2Proof.Machine.execDecAbx a s
  | .dex => Sys2Proof.Machine.execDex s
  | .dey => Sys2Proof.Machine.execDey s
  | .eorIzx z => Sys2Proof.Machine.execEorIzx z s
  | .eorZp z => Sys2Proof.Machine.execEorZp z s
  | .eorImm v => Sys2Proof.Machine.execEorImm v s
  | .eorAbs a => Sys2Proof.Machine.execEorAbs a s
  | .eorIzy z => Sys2Proof.Machine.execEorIzy z s
  | .eorZpx z => Sys2Proof.Machine.execEorZpx z s
  | .eorAby a => Sys2Proof.Machine.execEorAby a s
  | .eorAbx a => Sys2Proof.Machine.execEorAbx a s
  | .incZp z => Sys2Proof.Machine.execIncZp z s
  | .incAbs a => Sys2Proof.Machine.execIncAbs a s
  | .incZpx z => Sys2Proof.Machine.execIncZpx z s
  | .incAbx a => Sys2Proof.Machine.execIncAbx a s
  | .inx => Sys2Proof.Machine.execInx s
  | .iny => Sys2Proof.Machine.execIny s
  | .jmpAbs a => Sys2Proof.Machine.execJmpAbs a s
  | .jmpInd a => Sys2Proof.Machine.execJmpInd a s
  | .jsr a => Sys2Proof.Machine.execJsr a s
  | .ldaIzx z => Sys2Proof.Machine.execLdaIzx z s
  | .ldaZp z => Sys2Proof.Machine.execLdaZp z s
  | .ldaImm v => Sys2Proof.Machine.execLdaImm v s
  | .ldaAbs a => Sys2Proof.Machine.execLdaAbs a s
  | .ldaIzy z => Sys2Proof.Machine.execLdaIzy z s
  | .ldaZpx z => Sys2Proof.Machine.execLdaZpx z s
  | .ldaAby a => Sys2Proof.Machine.execLdaAby a s
  | .ldaAbx a => Sys2Proof.Machine.execLdaAbx a s
  | .ldxImm v => Sys2Proof.Machine.execLdxImm v s
  | .ldxZp z => Sys2Proof.Machine.execLdxZp z s
  | .ldxAbs a => Sys2Proof.Machine.execLdxAbs a s
  | .ldxZpy z => Sys2Proof.Machine.execLdxZpy z s
  | .ldxAby a => Sys2Proof.Machine.execLdxAby a s
  | .ldyImm v => Sys2Proof.Machine.execLdyImm v s
  | .ldyZp z => Sys2Proof.Machine.execLdyZp z s
  | .ldyAbs a => Sys2Proof.Machine.execLdyAbs a s
  | .ldyZpx z => Sys2Proof.Machine.execLdyZpx z s
  | .ldyAbx a => Sys2Proof.Machine.execLdyAbx a s
  | .lsrZp z => Sys2Proof.Machine.execLsrZp z s
  | .lsrAcc => Sys2Proof.Machine.execLsrAcc s
  | .lsrAbs a => Sys2Proof.Machine.execLsrAbs a s
  | .lsrZpx z => Sys2Proof.Machine.execLsrZpx z s
  | .lsrAbx a => Sys2Proof.Machine.execLsrAbx a s
  | .nop => Sys2Proof.Machine.execNop s
  | .oraIzx z => Sys2Proof.Machine.execOraIzx z s
  | .oraZp z => Sys2Proof.Machine.execOraZp z s
  | .oraImm v => Sys2Proof.Machine.execOraImm v s
  | .oraAbs a => Sys2Proof.Machine.execOraAbs a s
  | .oraIzy z => Sys2Proof.Machine.execOraIzy z s
  | .oraZpx z => Sys2Proof.Machine.execOraZpx z s
  | .oraAby a => Sys2Proof.Machine.execOraAby a s
  | .oraAbx a => Sys2Proof.Machine.execOraAbx a s
  | .pha => Sys2Proof.Machine.execPha s
  | .php => Sys2Proof.Machine.execPhp s
  | .pla => Sys2Proof.Machine.execPla s
  | .plp => Sys2Proof.Machine.execPlp s
  | .rolZp z => Sys2Proof.Machine.execRolZp z s
  | .rolAcc => Sys2Proof.Machine.execRolAcc s
  | .rolAbs a => Sys2Proof.Machine.execRolAbs a s
  | .rolZpx z => Sys2Proof.Machine.execRolZpx z s
  | .rolAbx a => Sys2Proof.Machine.execRolAbx a s
  | .rorZp z => Sys2Proof.Machine.execRorZp z s
  | .rorAcc => Sys2Proof.Machine.execRorAcc s
  | .rorAbs a => Sys2Proof.Machine.execRorAbs a s
  | .rorZpx z => Sys2Proof.Machine.execRorZpx z s
  | .rorAbx a => Sys2Proof.Machine.execRorAbx a s
  | .rti => Sys2Proof.Machine.execRti s
  | .rts => Sys2Proof.Machine.execRts s
  | .sbcIzx z => Sys2Proof.Machine.execSbcIzx z s
  | .sbcZp z => Sys2Proof.Machine.execSbcZp z s
  | .sbcImm v => Sys2Proof.Machine.execSbcImm v s
  | .sbcAbs a => Sys2Proof.Machine.execSbcAbs a s
  | .sbcIzy z => Sys2Proof.Machine.execSbcIzy z s
  | .sbcZpx z => Sys2Proof.Machine.execSbcZpx z s
  | .sbcAby a => Sys2Proof.Machine.execSbcAby a s
  | .sbcAbx a => Sys2Proof.Machine.execSbcAbx a s
  | .sec => Sys2Proof.Machine.execSec s
  | .sed => Sys2Proof.Machine.execSed s
  | .sei => Sys2Proof.Machine.execSei s
  | .staIzx z => Sys2Proof.Machine.execStaIzx z s
  | .staZp z => Sys2Proof.Machine.execStaZp z s
  | .staAbs a => Sys2Proof.Machine.execStaAbs a s
  | .staIzy z => Sys2Proof.Machine.execStaIzy z s
  | .staZpx z => Sys2Proof.Machine.execStaZpx z s
  | .staAby a => Sys2Proof.Machine.execStaAby a s
  | .staAbx a => Sys2Proof.Machine.execStaAbx a s
  | .stxZp z => Sys2Proof.Machine.execStxZp z s
  | .stxAbs a => Sys2Proof.Machine.execStxAbs a s
  | .stxZpy z => Sys2Proof.Machine.execStxZpy z s
  | .styZp z => Sys2Proof.Machine.execStyZp z s
  | .styAbs a => Sys2Proof.Machine.execStyAbs a s
  | .styZpx z => Sys2Proof.Machine.execStyZpx z s
  | .tax => Sys2Proof.Machine.execTax s
  | .tay => Sys2Proof.Machine.execTay s
  | .tsx => Sys2Proof.Machine.execTsx s
  | .txa => Sys2Proof.Machine.execTxa s
  | .txs => Sys2Proof.Machine.execTxs s
  | .tya => Sys2Proof.Machine.execTya s

end Sys2Proof.Machine
end

