-- ==== Sys2Proof/Machine/Environment.lean ====
section
/-! DEFINITION. What stands outside the core may do between two steps: request an NMI, drive the IRQ line, reset
(10_state.md R22, R24; 70_reset_and_hazards.md R270 to R274). -/

namespace Sys2Proof.Machine

/-- The environment asserts `NMI` (R22): the latch is set; setting it again has no further effect. -/
def assertNmi (s : State) : State := { s with nmiPending := true }

/-- The environment drives `IRQ_LINE` (R24). -/
def driveIrq (level : Bool) (s : State) : State := { s with irqLine := level }

/-- The registers as the reset sequence writes them, before the vector is read (R270). -/
def resetRegisters (s : State) : State :=
  { s with
    a := s.params.aReset
    x := s.params.xReset
    y := s.params.yReset
    sp := 0xFD
    p := s.params.pReset
    clk := 0
    nmiPending := false
    fault := none
    accesses := [] }

/-- `RESET` (R270), at power-on and at any instruction boundary (R274): two bus reads, no write, PC from the vector. -/
def applyReset (s : State) : State :=
  let r := read16 resetVector (resetRegisters s)
  r.2.setPc r.1

/-- Power-on of a machine with parameters `p` and stored bytes `m` (`RAM_RESET` among them, R274). -/
def powerOn (p : Params) (m : Memory) : State :=
  applyReset
    { a := 0, x := 0, y := 0, sp := 0, pc := 0, p := 0, clk := 0, nmiPending := false, fault := none, irqLine := false,
      mem := m, params := p, deviceCount := 0, accesses := [] }

end Sys2Proof.Machine
end

