-- ==== Sys2Proof/Machine/Fetch.lean ====
section
/-! DEFINITION. Fetching an instruction's bytes (41_execution_loop.md R110 steps 2 and 3, R112, R113), and placing bytes where
the fetch finds them. -/

namespace Sys2Proof.Machine

/-- `Fetch8()` (R112). -/
def fetch8 (s : State) : Byte × State :=
  let r := memRead s.pc s
  (r.1, r.2.setPc (s.pc + 1))

/-- `n` bytes fetched one after the other. -/
def fetchN : Nat → State → List Byte × State
  | 0, s => ([], s)
  | n + 1, s =>
    let r := fetch8 s
    let q := fetchN n r.2
    (r.1 :: q.1, q.2)

/-- What a fetch ends in: an instruction, with PC past it, or the state in which an illegal opcode leaves the core. -/
inductive Fetched where
  | instr (i : Instr) (s : State)
  | illegal (s : State)

/-- The state after an illegal opcode (60_exceptions.md R241): the one read has been made, PC is set back to the opcode, the
record is set. -/
def raiseIllegal (opcode : Byte) (addr : Word) (s : State) : State :=
  raise (.illegalOpcode opcode addr) (s.setPc addr)

/-- The opcode is fetched and looked up, then its operand bytes are fetched and the instruction decoded (R110, R112, R113,
R108; log entry 11). The last arm is never reached (`Sys2Proof.Laws.decode_fetched`). -/
def fetchInstr (s : State) : Fetched :=
  let r := fetch8 s
  match descriptor r.1 with
  | none => .illegal (raiseIllegal r.1 s.pc r.2)
  | some d =>
    let q := fetchN d.mode.oplen r.2
    match decode (r.1 :: q.1) with
    | .ok (i, _) => .instr i q.2
    | .error _ => .illegal (raiseIllegal r.1 s.pc r.2)

/-- A byte placed in storage from outside the machine, not by a bus write: where the bus has storage at `a`, it is the byte
there (log entry 12). -/
def State.place (s : State) (a : Word) (v : Byte) : State :=
  match region s.params a with
  | .cell k | .rom k => { s with mem := Memory.write s.mem k v }
  | .stub _ | .device _ => s

/-- Bytes placed at consecutive addresses. -/
def State.placeAll (s : State) (a : Word) : List Byte → State
  | [] => s
  | v :: rest => (s.place a v).placeAll (a + 1) rest

/-- A state that will fetch at its next step: no fault, no pending NMI, the IRQ line released (R110). -/
def State.readyToFetch (s : State) : State := { s with fault := none, nmiPending := false, irqLine := false }

end Sys2Proof.Machine
end

