-- ==== Sys2Proof/Machine/Interrupts.lean ====
section
/-! DEFINITION. The interrupt check of a step (41_execution_loop.md R110 step 1; 60_exceptions.md R245, R246, R248). -/

namespace Sys2Proof.Machine

/-- A step begins: its bus transactions are recorded from here (log entry 9). -/
def State.beginStep (s : State) : State := { s with accesses := [] }

/-- Whether the IRQ is taken at a boundary where no NMI is pending (R246): the line asserted and I clear. -/
def State.irqTaken (s : State) : Bool := s.irqLine && !s.flag .i

/-- The interrupt entry a step takes before any fetch, NMI first (R248), and `none` when it fetches. -/
def interruptStep (s : State) : Option State :=
  if s.nmiPending then some (interruptEntry nmiVector { s with nmiPending := false })
  else if s.irqTaken then some (interruptEntry irqVector s)
  else none

end Sys2Proof.Machine
end

