-- ==== Sys2Proof/Machine/Step.lean ====
section
/-! DEFINITION. One step of the core (41_execution_loop.md R110, R121), and the word the next step fetches. -/

namespace Sys2Proof.Machine

/-- Steps (2) to (6) of R110. -/
def runInstruction (s : State) : Host.Outcome State Fault Refusal :=
  match fetchInstr s with
  | .instr i t => exec i t
  | .illegal t => .next t

/-- `step()` (R110). A core with a recorded fault has no step (R121): the step answers that fault. -/
def step (s : State) : Host.Outcome State Fault Refusal :=
  match s.fault with
  | some r => .fault r
  | none =>
    match interruptStep s.beginStep with
    | some t => .next t
    | none => runInstruction s.beginStep

/-- `s` with the instruction of table word `w` stored at PC, and nothing that would keep the next step from fetching it
(log entry 12). -/
def State.withFetchWord (s : State) (nbits w : Nat) : State :=
  s.readyToFetch.placeAll s.pc (tableWordBytes nbits w)

end Sys2Proof.Machine
end

