-- ==== Sys2Proof/Machine/StepTo.lean ====
section
/-! DEFINITION. The host command `step_to` (41_execution_loop.md R119). -/

namespace Sys2Proof.Machine

/-- The loop of R119, for at most `fuel` steps: while `CLK < target` and no fault, step. -/
def stepLoop : Nat → Nat → State → State
  | 0, _, s => s
  | fuel + 1, target, s =>
    if s.clk < target ∧ s.fault = none then
      match step s with
      | .next t => stepLoop fuel target t
      | .fault _ | .refused _ => s
    else s

/-- `step_to(target)` (R119). Every step adds at least one cycle or faults (R120), so `target - CLK` steps are enough. -/
def stepTo (target : Nat) (s : State) : State := stepLoop (target - s.clk) target s

end Sys2Proof.Machine
end

