-- ==== Sys2Proof/Safety.lean ====
section
/-! DEFINITION. What counts as a safe run, the invariant, and the terms in which statements about instructions are made:
what an instruction reads, what it leaves alone, what it stores. -/

namespace Sys2Proof.Machine

/-! ## Safe runs -/

/-- `n` steps from `s` with no fault recorded before or after any of them; "a claim about a run must take "no fault recorded"
as a premise" (60_exceptions.md R240). -/
def SafeFor : Nat → State → Prop
  | 0, s => s.fault = none
  | n + 1, s =>
    s.fault = none ∧
      match step s with
      | .next t => SafeFor n t
      | .fault _ | .refused _ => False

/-- A recorded fault is an illegal opcode at PC (R241); a contract violation is never recorded (R242). -/
def faultOk (s : State) : Bool :=
  match s.fault with
  | none => true
  | some (.illegalOpcode opcode addr) => (descriptor opcode).isNone && addr == s.pc
  | some (.contractViolation _) => false

/-- The invariant: memory in canonical form, parameters as R6 asks, and a recorded fault as R241 describes it. -/
def Invariant (s : State) : Prop := Memory.wf s.mem = true ∧ s.params.wf = true ∧ faultOk s = true

/-- The 105 opcode values with no operation, as 30_encoding.md R75 lists them. -/
def illegalOpcodes : List Byte :=
  [0x02, 0x03, 0x04, 0x07, 0x0B, 0x0C, 0x0F, 0x12, 0x13, 0x14, 0x17, 0x1A, 0x1B, 0x1C, 0x1F, 0x22, 0x23, 0x27, 0x2B, 0x2F, 0x32] ++
  [0x33, 0x34, 0x37, 0x3A, 0x3B, 0x3C, 0x3F, 0x42, 0x43, 0x44, 0x47, 0x4B, 0x4F, 0x52, 0x53, 0x54, 0x57, 0x5A, 0x5B, 0x5C, 0x5F] ++
  [0x62, 0x63, 0x64, 0x67, 0x6B, 0x6F, 0x72, 0x73, 0x74, 0x77, 0x7A, 0x7B, 0x7C, 0x7F, 0x80, 0x82, 0x83, 0x87, 0x89, 0x8B, 0x8F] ++
  [0x92, 0x93, 0x97, 0x9B, 0x9C, 0x9E, 0x9F, 0xA3, 0xA7, 0xAB, 0xAF, 0xB2, 0xB3, 0xB7, 0xBB, 0xBF, 0xC2, 0xC3, 0xC7, 0xCB, 0xCF] ++
  [0xD2, 0xD3, 0xD4, 0xD7, 0xDA, 0xDB, 0xDC, 0xDF, 0xE2, 0xE3, 0xE7, 0xEB, 0xEF, 0xF2, 0xF3, 0xF4, 0xF7, 0xFA, 0xFB, 0xFC, 0xFF]

/-- The 31 opcodes whose extra flag is 1, as 30_encoding.md R81 lists them. -/
def extraOpcodes : List Byte :=
  [0x7D, 0x79, 0x71, 0x3D, 0x39, 0x31, 0xDD, 0xD9, 0xD1, 0x5D, 0x59, 0x51, 0xBD, 0xB9, 0xB1, 0x1D, 0x19, 0x11] ++
  [0xFD, 0xF9, 0xF1, 0xBE, 0xBC, 0x10, 0x30, 0x50, 0x70, 0x90, 0xB0, 0xD0, 0xF0]

/-- The 151 rows of the table of 30_encoding.md R74, in its order by mnemonic: the opcode with its operation, mode, base cycles
and extra-cycle flag (`+p` or `+b`). -/
def opcodeRows : List (Byte × Descriptor) :=
  [(0x61, ⟨.adc, .izx, 6, false⟩), (0x65, ⟨.adc, .zp, 3, false⟩), (0x69, ⟨.adc, .imm, 2, false⟩),
    (0x6D, ⟨.adc, .abs, 4, false⟩), (0x71, ⟨.adc, .izy, 5, true⟩), (0x75, ⟨.adc, .zpx, 4, false⟩),
    (0x79, ⟨.adc, .aby, 4, true⟩), (0x7D, ⟨.adc, .abx, 4, true⟩), (0x21, ⟨.and, .izx, 6, false⟩),
    (0x25, ⟨.and, .zp, 3, false⟩), (0x29, ⟨.and, .imm, 2, false⟩), (0x2D, ⟨.and, .abs, 4, false⟩),
    (0x31, ⟨.and, .izy, 5, true⟩), (0x35, ⟨.and, .zpx, 4, false⟩), (0x39, ⟨.and, .aby, 4, true⟩),
    (0x3D, ⟨.and, .abx, 4, true⟩)] ++
  [(0x06, ⟨.asl, .zp, 5, false⟩), (0x0A, ⟨.asl, .acc, 2, false⟩), (0x0E, ⟨.asl, .abs, 6, false⟩),
    (0x16, ⟨.asl, .zpx, 6, false⟩), (0x1E, ⟨.asl, .abx, 7, false⟩), (0x90, ⟨.bcc, .rel, 2, true⟩),
    (0xB0, ⟨.bcs, .rel, 2, true⟩), (0xF0, ⟨.beq, .rel, 2, true⟩), (0x24, ⟨.bit, .zp, 3, false⟩),
    (0x2C, ⟨.bit, .abs, 4, false⟩), (0x30, ⟨.bmi, .rel, 2, true⟩), (0xD0, ⟨.bne, .rel, 2, true⟩),
    (0x10, ⟨.bpl, .rel, 2, true⟩), (0x00, ⟨.brk, .imp, 7, false⟩), (0x50, ⟨.bvc, .rel, 2, true⟩),
    (0x70, ⟨.bvs, .rel, 2, true⟩), (0x18, ⟨.clc, .imp, 2, false⟩), (0xD8, ⟨.cld, .imp, 2, false⟩),
    (0x58, ⟨.cli, .imp, 2, false⟩), (0xB8, ⟨.clv, .imp, 2, false⟩)] ++
  [(0xC1, ⟨.cmp, .izx, 6, false⟩), (0xC5, ⟨.cmp, .zp, 3, false⟩), (0xC9, ⟨.cmp, .imm, 2, false⟩),
    (0xCD, ⟨.cmp, .abs, 4, false⟩), (0xD1, ⟨.cmp, .izy, 5, true⟩), (0xD5, ⟨.cmp, .zpx, 4, false⟩),
    (0xD9, ⟨.cmp, .aby, 4, true⟩), (0xDD, ⟨.cmp, .abx, 4, true⟩), (0xE0, ⟨.cpx, .imm, 2, false⟩),
    (0xE4, ⟨.cpx, .zp, 3, false⟩), (0xEC, ⟨.cpx, .abs, 4, false⟩), (0xC0, ⟨.cpy, .imm, 2, false⟩),
    (0xC4, ⟨.cpy, .zp, 3, false⟩), (0xCC, ⟨.cpy, .abs, 4, false⟩), (0xC6, ⟨.dec, .zp, 5, false⟩),
    (0xCE, ⟨.dec, .abs, 6, false⟩), (0xD6, ⟨.dec, .zpx, 6, false⟩), (0xDE, ⟨.dec, .abx, 7, false⟩),
    (0xCA, ⟨.dex, .imp, 2, false⟩), (0x88, ⟨.dey, .imp, 2, false⟩)] ++
  [(0x41, ⟨.eor, .izx, 6, false⟩), (0x45, ⟨.eor, .zp, 3, false⟩), (0x49, ⟨.eor, .imm, 2, false⟩),
    (0x4D, ⟨.eor, .abs, 4, false⟩), (0x51, ⟨.eor, .izy, 5, true⟩), (0x55, ⟨.eor, .zpx, 4, false⟩),
    (0x59, ⟨.eor, .aby, 4, true⟩), (0x5D, ⟨.eor, .abx, 4, true⟩), (0xE6, ⟨.inc, .zp, 5, false⟩),
    (0xEE, ⟨.inc, .abs, 6, false⟩), (0xF6, ⟨.inc, .zpx, 6, false⟩), (0xFE, ⟨.inc, .abx, 7, false⟩),
    (0xE8, ⟨.inx, .imp, 2, false⟩), (0xC8, ⟨.iny, .imp, 2, false⟩), (0x4C, ⟨.jmp, .abs, 3, false⟩),
    (0x6C, ⟨.jmp, .ind, 5, false⟩), (0x20, ⟨.jsr, .abs, 6, false⟩)] ++
  [(0xA1, ⟨.lda, .izx, 6, false⟩), (0xA5, ⟨.lda, .zp, 3, false⟩), (0xA9, ⟨.lda, .imm, 2, false⟩),
    (0xAD, ⟨.lda, .abs, 4, false⟩), (0xB1, ⟨.lda, .izy, 5, true⟩), (0xB5, ⟨.lda, .zpx, 4, false⟩),
    (0xB9, ⟨.lda, .aby, 4, true⟩), (0xBD, ⟨.lda, .abx, 4, true⟩), (0xA2, ⟨.ldx, .imm, 2, false⟩),
    (0xA6, ⟨.ldx, .zp, 3, false⟩), (0xAE, ⟨.ldx, .abs, 4, false⟩), (0xB6, ⟨.ldx, .zpy, 4, false⟩),
    (0xBE, ⟨.ldx, .aby, 4, true⟩), (0xA0, ⟨.ldy, .imm, 2, false⟩), (0xA4, ⟨.ldy, .zp, 3, false⟩),
    (0xAC, ⟨.ldy, .abs, 4, false⟩), (0xB4, ⟨.ldy, .zpx, 4, false⟩), (0xBC, ⟨.ldy, .abx, 4, true⟩)] ++
  [(0x46, ⟨.lsr, .zp, 5, false⟩), (0x4A, ⟨.lsr, .acc, 2, false⟩), (0x4E, ⟨.lsr, .abs, 6, false⟩),
    (0x56, ⟨.lsr, .zpx, 6, false⟩), (0x5E, ⟨.lsr, .abx, 7, false⟩), (0xEA, ⟨.nop, .imp, 2, false⟩),
    (0x01, ⟨.ora, .izx, 6, false⟩), (0x05, ⟨.ora, .zp, 3, false⟩), (0x09, ⟨.ora, .imm, 2, false⟩),
    (0x0D, ⟨.ora, .abs, 4, false⟩), (0x11, ⟨.ora, .izy, 5, true⟩), (0x15, ⟨.ora, .zpx, 4, false⟩),
    (0x19, ⟨.ora, .aby, 4, true⟩), (0x1D, ⟨.ora, .abx, 4, true⟩), (0x48, ⟨.pha, .imp, 3, false⟩),
    (0x08, ⟨.php, .imp, 3, false⟩), (0x68, ⟨.pla, .imp, 4, false⟩), (0x28, ⟨.plp, .imp, 4, false⟩)] ++
  [(0x26, ⟨.rol, .zp, 5, false⟩), (0x2A, ⟨.rol, .acc, 2, false⟩), (0x2E, ⟨.rol, .abs, 6, false⟩),
    (0x36, ⟨.rol, .zpx, 6, false⟩), (0x3E, ⟨.rol, .abx, 7, false⟩), (0x66, ⟨.ror, .zp, 5, false⟩),
    (0x6A, ⟨.ror, .acc, 2, false⟩), (0x6E, ⟨.ror, .abs, 6, false⟩), (0x76, ⟨.ror, .zpx, 6, false⟩),
    (0x7E, ⟨.ror, .abx, 7, false⟩), (0x40, ⟨.rti, .imp, 6, false⟩), (0x60, ⟨.rts, .imp, 6, false⟩),
    (0xE1, ⟨.sbc, .izx, 6, false⟩), (0xE5, ⟨.sbc, .zp, 3, false⟩), (0xE9, ⟨.sbc, .imm, 2, false⟩),
    (0xED, ⟨.sbc, .abs, 4, false⟩), (0xF1, ⟨.sbc, .izy, 5, true⟩), (0xF5, ⟨.sbc, .zpx, 4, false⟩),
    (0xF9, ⟨.sbc, .aby, 4, true⟩), (0xFD, ⟨.sbc, .abx, 4, true⟩)] ++
  [(0x38, ⟨.sec, .imp, 2, false⟩), (0xF8, ⟨.sed, .imp, 2, false⟩), (0x78, ⟨.sei, .imp, 2, false⟩),
    (0x81, ⟨.sta, .izx, 6, false⟩), (0x85, ⟨.sta, .zp, 3, false⟩), (0x8D, ⟨.sta, .abs, 4, false⟩),
    (0x91, ⟨.sta, .izy, 6, false⟩), (0x95, ⟨.sta, .zpx, 4, false⟩), (0x99, ⟨.sta, .aby, 5, false⟩),
    (0x9D, ⟨.sta, .abx, 5, false⟩), (0x86, ⟨.stx, .zp, 3, false⟩), (0x8E, ⟨.stx, .abs, 4, false⟩),
    (0x96, ⟨.stx, .zpy, 4, false⟩), (0x84, ⟨.sty, .zp, 3, false⟩), (0x8C, ⟨.sty, .abs, 4, false⟩),
    (0x94, ⟨.sty, .zpx, 4, false⟩), (0xAA, ⟨.tax, .imp, 2, false⟩), (0xA8, ⟨.tay, .imp, 2, false⟩),
    (0xBA, ⟨.tsx, .imp, 2, false⟩), (0x8A, ⟨.txa, .imp, 2, false⟩)] ++
  [(0x9A, ⟨.txs, .imp, 2, false⟩), (0x98, ⟨.tya, .imp, 2, false⟩)]

/-! ## What an instruction reads -/

/-- The location an instruction's operand resolves to in `s` (R90). -/
def operandLoc (i : Instr) (s : State) : Loc := (resolve i.operand s).1

/-- The byte `Load` gives for the operand: the accumulator, the immediate byte, or what the bus answers at the effective
address once the pointer reads have been made (R91). -/
def operandByte (i : Instr) (s : State) : Byte :=
  match operandLoc i s with
  | .accLoc => s.a
  | .immLoc v => v
  | .memLoc a _ => (resolve i.operand s).2.busByte a
  | .noLoc | .relLoc _ _ => 0

/-- The transactions recorded once the operand has been resolved (R109). -/
def afterResolve (i : Instr) (s : State) : List BusAccess := (resolve i.operand s).2.accesses

/-- The transaction of a `Load` of `v` (R91): one bus read for a memory location, none for the others. -/
def loadAccess (l : Loc) (v : Byte) : List BusAccess :=
  match l with
  | .memLoc a _ => [.read a v]
  | .noLoc | .accLoc | .immLoc _ | .relLoc _ _ => []

/-- The transaction of a `Store` of `v` (R91). -/
def storeAccess (l : Loc) (v : Byte) : List BusAccess :=
  match l with
  | .memLoc a _ => [.write a v]
  | .noLoc | .accLoc | .immLoc _ | .relLoc _ _ => []

/-! ## What an instruction changes and leaves -/

/-- A, X, Y, SP and PC. -/
def State.regs (s : State) : Byte × Byte × Byte × Byte × Word := (s.a, s.x, s.y, s.sp, s.pc)

/-- Every flag but those listed is unchanged; bits 4 and 5 of P are flags here. -/
def FlagsKept (changed : List Flag) (s t : State) : Prop := ∀ f, f ∉ changed → t.flag f = s.flag f

/-- Z and N come from `v` (R20). -/
def ZNFrom (v : Byte) (t : State) : Prop := (t.flag .z = true ↔ v = 0x00) ∧ (t.flag .n = true ↔ 0x80 ≤ v.toNat)

/-- Every byte of memory reads as before. -/
def MemoryKept (s t : State) : Prop := ∀ b, t.peek b = s.peek b

/-- Whether `b` names the stored byte that a write at `a` replaces: the same physical byte, reached at `a` itself or at a
mirror of it (R52); never where the bus keeps no byte at `a` (R48, R55, R56, R60). -/
def hits (p : Params) (a b : Word) : Bool :=
  match region p a, region p b with
  | .cell j, .cell k => j == k
  | _, _ => false

/-- The stored byte at `a` reads as `v`, and every other byte of memory reads as before. -/
def StoresOnly (a : Word) (v : Byte) (s t : State) : Prop :=
  ∀ b, t.peek b = if hits s.params a b then some v else s.peek b

/-- What every completed instruction does: the clock goes on by its base cycles and `e` extra cycles where its row has the
extra flag (R116); the NMI latch, the fault record, the IRQ line and the parameters stay (10_state.md R26). -/
structure Completed (i : Instr) (e : Nat) (s t : State) : Prop where
  clk        : t.clk = s.clk + cost i e
  nmiPending : t.nmiPending = s.nmiPending
  fault      : t.fault = s.fault
  irqLine    : t.irqLine = s.irqLine
  params     : t.params = s.params

/-- What a read-modify-write instruction leaves where its operand is (R169): in place of the accumulator, with memory as it
was, or in the stored byte at the effective address, with the accumulator and every other byte as they were. -/
def Replaces (l : Loc) (r : Byte) (s t : State) : Prop :=
  match l with
  | .accLoc => t.a = r ∧ MemoryKept s t
  | .memLoc a _ => t.a = s.a ∧ StoresOnly a r s t
  | .noLoc | .immLoc _ | .relLoc _ _ => False

/-- The interrupt sequence of 60_exceptions.md R247 and of BRK (47_stack_flag_system.md R226): three bytes pushed on page 1
(R255), I set and no other flag changed, PC from the vector, A, X, Y kept. `ret` is the return address pushed, `pushed` the
copy of the status byte, `before` the transactions recorded earlier in the step. -/
structure InterruptTaken (vec ret : Word) (pushed : Byte) (before : List BusAccess) (s t : State) : Prop where
  a        : t.a = s.a
  x        : t.x = s.x
  y        : t.y = s.y
  sp       : t.sp = s.sp - 3
  pc       : t.pc = (read16 vec s).1
  flagI    : t.flag .i = true
  flags    : FlagsKept [.i] s t
  memory   : ∀ b, t.peek b =
    if hits s.params (stackAddr s.sp) b then some (hi ret)
    else if hits s.params (stackAddr (s.sp - 1)) b then some (lo ret)
    else if hits s.params (stackAddr (s.sp - 2)) b then some pushed
    else s.peek b
  accesses : t.accesses = before ++
    [.write (stackAddr s.sp) (hi ret), .write (stackAddr (s.sp - 1)) (lo ret), .write (stackAddr (s.sp - 2)) pushed,
     .read vec (lo t.pc), .read (vec + 1) (hi t.pc)]
  fault    : t.fault = s.fault
  irqLine  : t.irqLine = s.irqLine
  params   : t.params = s.params

/-- The reads of an instruction fetch at consecutive addresses (R112). -/
def fetchAccesses (a : Word) : List Byte → List BusAccess
  | [] => []
  | v :: rest => .read a v :: fetchAccesses (a + 1) rest

end Sys2Proof.Machine
end

