-- ==== Sys2Proof/Certificates/Slice0/Obligations.lean ====
section
/-! DEFINITION. The statements for the provers. In the statements about `exec`, PC is past the instruction's bytes, as it is
when an operation executes (10_state.md R16); `operandLoc`, `operandByte` and the frame terms are in Sys2Proof/Safety.lean. -/

open Sys2Proof Sys2Proof.Machine

/-! ## Encoding -/

/-- Every instruction, with every value of its operand bytes, decodes from its encoding, whatever bytes follow. -/
def Obligations.DecodeOfEncodeIsTheInstruction : Prop :=
  ∀ (i : Instr) (rest : List Byte), decode (encode i ++ rest) = .ok (i, rest)

/-- Bytes that decode are the encoding of what they decode to, and the rest. -/
def Obligations.DecodedBytesAreTheEncoding : Prop :=
  ∀ (bs rest : List Byte) (i : Instr), decode bs = .ok (i, rest) → bs = encode i ++ rest

/-- R76, R75, R72: the table has a descriptor for exactly the opcode bytes that are not among the 105; with one, the decoder
reads the descriptor's operation and mode, takes as many bytes as the opcode byte alone says and assembles the operand from
them, a 16-bit address with byte 1 low; with the others it rejects. -/
def Obligations.DecoderIsTotalOnOpcodeBytes : Prop :=
  illegalOpcodes.length = 105 ∧ illegalOpcodes.Nodup ∧
  (∀ op : Byte, descriptor op = none ↔ op ∈ illegalOpcodes) ∧
  (∀ (op : Byte) (rest : List Byte), op ∈ illegalOpcodes → decode (op :: rest) = .error (.illegalOpcode op)) ∧
  (∀ (op b1 b2 : Byte) (rest : List Byte), op ∉ illegalOpcodes →
    ∃ d i, descriptor op = some d ∧ i.op = d.op ∧ i.operand.mode = d.mode ∧ i.length = 1 + d.mode.oplen ∧
      (let a := BitVec.ofNat 16 (b2.toNat * 256 + b1.toNat)
       i.operand ∈ [Operand.imp, .acc, .imm b1, .zp b1, .zpx b1, .zpy b1, .abs a, .abx a, .aby a, .ind a, .izx b1, .izy b1,
        .rel b1]) ∧
      decode (op :: b1 :: b2 :: rest) = .ok (i, (b1 :: b2 :: rest).drop d.mode.oplen))

/-- R81: the extra flag is 1 for exactly the 31 opcodes listed; the indexed stores cost 5, 5, 6 and the read-modify-write
AbsoluteX opcodes 7, with no extra flag. -/
def Obligations.ExtraCycleFlagIsSetForExactlyThese : Prop :=
  extraOpcodes.length = 31 ∧ extraOpcodes.Nodup ∧
  (∀ (op : Byte) (d : Descriptor), descriptor op = some d → (d.extra = true ↔ op ∈ extraOpcodes)) ∧
  (∀ r ∈ [((0x9D : Byte), 5), (0x99, 5), (0x91, 6), (0x1E, 7), (0x5E, 7), (0x3E, 7), (0x7E, 7), (0xFE, 7), (0xDE, 7)],
    (descriptor r.1).map (fun d => (d.cycles, d.extra)) = some (r.2, false))

/-- R74, R78: each of the 151 opcodes has the operation, mode, base cycles and extra-cycle flag of its row, `opcodeRows`; each
instruction is encoded with the opcode of a row of its operation and mode and costs that row's cycles, with the extra cycles
where the row has the flag (R116); and the words that R78 writes out decode to the instruction they stand for. -/
def Obligations.WordsOfTheSyntaxTableDecode : Prop :=
  opcodeRows.length = 151 ∧ (opcodeRows.map Prod.fst).Nodup ∧ (∀ r ∈ opcodeRows, descriptor r.1 = some r.2) ∧
  (∀ i : Instr, ∃ d, (i.opcode, d) ∈ opcodeRows ∧ (encode i).head? = some i.opcode ∧ d.op = i.op ∧
    d.mode = i.operand.mode ∧ ∀ e, cost i e = d.cycles + (if d.extra then e else 0)) ∧
  decode [0x18] = .ok (.clc, []) ∧ decode [0x0A] = .ok (.aslAcc, []) ∧ decode [0xA9, 0x10] = .ok (.ldaImm 0x10, []) ∧
  decode [0xA5, 0x10] = .ok (.ldaZp 0x10, []) ∧ decode [0xB5, 0x10] = .ok (.ldaZpx 0x10, []) ∧
  decode [0xB6, 0x10] = .ok (.ldxZpy 0x10, []) ∧ decode [0xAD, 0x34, 0x12] = .ok (.ldaAbs 0x1234, []) ∧
  decode [0xBD, 0x34, 0x12] = .ok (.ldaAbx 0x1234, []) ∧ decode [0xB9, 0x34, 0x12] = .ok (.ldaAby 0x1234, []) ∧
  decode [0x6C, 0xFF, 0x02] = .ok (.jmpInd 0x02FF, []) ∧ decode [0xA1, 0x10] = .ok (.ldaIzx 0x10, []) ∧
  decode [0xB1, 0x10] = .ok (.ldaIzy 0x10, []) ∧ decode [0xD0, 0xFB] = .ok (.bne 0xFB, []) ∧
  decode [0x00, 0xFF] = .ok (.brk, [0xFF])

/-! ## The step -/

/-- R110, R112 to R115: when the core has no fault and takes no interrupt, and the bytes it fetches one after the other from
PC decode to `i`, the step is `exec i` of the state after that fetch (PC past the instruction). -/
def Obligations.StepRunsTheDecodedInstruction : Prop :=
  ∀ (s : State) (bs : List Byte) (i : Instr), s.fault = none → interruptStep s.beginStep = none →
    decode bs = .ok (i, []) → (fetchN bs.length s.beginStep).1 = bs →
    step s = exec i (fetchN bs.length s.beginStep).2

/-- R112, R17: a fetch of stored bytes reads them one after the other at PC, PC + 1, ... modulo 65536, and changes nothing
but PC and the record of the reads. -/
def Obligations.FetchReadsConsecutiveBytes : Prop :=
  ∀ (bs : List Byte) (s : State),
    (∀ (k : Nat) (h : k < bs.length), s.peek (s.pc + BitVec.ofNat 16 k) = some bs[k]) →
    fetchN bs.length s =
      (bs, { s with pc := s.pc + BitVec.ofNat 16 bs.length, accesses := s.accesses ++ fetchAccesses s.pc bs })

/-- R241 (the spec's decision D19): the step that fetches one of the 105 opcode bytes makes that one read, records the fault,
leaves PC at the opcode and changes nothing else. That it answers a next state with the record in it is log entry 1. -/
def Obligations.IllegalOpcodeStopsTheCore : Prop :=
  ∀ s : State, s.fault = none → interruptStep s.beginStep = none → s.busByte s.pc ∈ illegalOpcodes →
    ∃ t, step s = .next t ∧ t.fault = some (.illegalOpcode (s.busByte s.pc) s.pc) ∧ t.regs = s.regs ∧ t.p = s.p ∧
      t.clk = s.clk ∧ t.nmiPending = s.nmiPending ∧ t.accesses = [.read s.pc (s.busByte s.pc)] ∧ MemoryKept s t ∧
      t.irqLine = s.irqLine ∧ t.params = s.params

/-- R121 (the spec's decision D29): a faulted core has no step, which the model's `step` answers by the fault (log entry 1);
`step_to` returns at once and changes nothing, and reset clears the fault. -/
def Obligations.FaultedCoreHasNoStep : Prop :=
  ∀ (s : State) (r : Fault) (target : Nat), s.fault = some r →
    step s = .fault r ∧ stepTo target s = s ∧ (applyReset s).fault = none

/-- R40, R253: no access, alignment, arithmetic, stack or privilege fault exists: the step of a core without a fault answers a
next state, and the only fault it can record is an illegal opcode (the spec's decision D19). That a step which fetches an
illegal opcode answers a next state too, with the record in it, is the model's choice of log entry 1. -/
def Obligations.UnfaultedCoreAlwaysSteps : Prop :=
  ∀ s : State, s.fault = none →
    ∃ t, step s = .next t ∧ (t.fault = none ∨ ∃ op addr, t.fault = some (.illegalOpcode op addr) ∧ op ∈ illegalOpcodes)

/-- The invariant is kept by every step, from every state that meets it, the step that records a fault among them (log entries
1 and 5). -/
def Obligations.StepKeepsTheInvariant : Prop :=
  ∀ s t : State, Invariant s → step s = .next t → Invariant t

/-- The invariant holds at reset. -/
def Obligations.InvariantHoldsAtReset : Prop := Invariant State.reset

/-- The invariant holds after RESET and power-on, and is kept by what the environment does between steps. -/
def Obligations.EnvironmentKeepsTheInvariant : Prop :=
  (∀ s : State, Invariant s → Invariant (assertNmi s) ∧ (∀ level, Invariant (driveIrq level s)) ∧ Invariant (applyReset s)) ∧
  ∀ (p : Params) (m : Memory), p.wf = true → Memory.wf m = true → Invariant (powerOn p m)

/-! ## Reset -/

/-- R270, R274: what RESET writes, the two bus reads it makes, and what it leaves alone. -/
def Obligations.ResetSequence : Prop :=
  ∀ s : State, let t := applyReset s
    t.a = s.params.aReset ∧ t.x = s.params.xReset ∧ t.y = s.params.yReset ∧ t.sp = 0xFD ∧ t.p = s.params.pReset ∧
    t.clk = 0 ∧ t.nmiPending = false ∧ t.fault = none ∧ t.pc = (read16 0xFFFC s).1 ∧
    t.accesses = [.read 0xFFFC (lo t.pc), .read 0xFFFD (hi t.pc)] ∧
    MemoryKept s t ∧ t.mem = s.mem ∧ t.irqLine = s.irqLine ∧ t.params = s.params

/-- R271: the values the source fixes, in the state after reset and after any RESET with parameters as R6 asks. -/
def Obligations.ResetValuesTheSourceFixes : Prop :=
  (State.reset.sp = 0xFD ∧ State.reset.flag .i = true ∧
    ∃ l h, State.reset.peek 0xFFFC = some l ∧ State.reset.peek 0xFFFD = some h ∧ State.reset.pc = join h l) ∧
  ∀ (s : State) (l h : Byte), s.params.wf = true → s.peek 0xFFFC = some l → s.peek 0xFFFD = some h →
    (applyReset s).sp = 0xFD ∧ (applyReset s).flag .i = true ∧ (applyReset s).pc = join h l

/-! ## Interrupts -/

/-- R245, R247, R248: a pending NMI is taken before any fetch, whatever the IRQ line and I are; the latch is cleared and the
entry costs `INT_CYCLES`. -/
def Obligations.PendingNmiIsTaken : Prop :=
  ∀ s : State, s.fault = none → s.nmiPending = true →
    ∃ t, step s = .next t ∧ InterruptTaken 0xFFFA s.pc (s.p &&& 0xEF) [] s t ∧ t.nmiPending = false ∧
      t.clk = s.clk + s.params.intCycles

/-- R246, R247: with no NMI pending, an asserted IRQ line with I clear is taken before any fetch. -/
def Obligations.UnmaskedIrqIsTaken : Prop :=
  ∀ s : State, s.fault = none → s.nmiPending = false → s.irqLine = true → s.flag .i = false →
    ∃ t, step s = .next t ∧ InterruptTaken 0xFFFE s.pc (s.p &&& 0xEF) [] s t ∧ t.nmiPending = false ∧
      t.clk = s.clk + s.params.intCycles

/-- R246, R248: while I is set, or an NMI is pending, the level of the IRQ line makes no difference to a step. -/
def Obligations.MaskedIrqLineMakesNoDifference : Prop :=
  ∀ (s t : State) (level : Bool), (s.flag .i = true ∨ s.nmiPending = true) → step s = .next t →
    step (driveIrq level s) = .next (driveIrq level t)

/-- R251: RTI at the first instruction of a handler brings back the interrupted code's PC, SP, A, X, Y and status byte, bit 4
as the entry pushed it. The stack page is stored on both buses (log entry 19). -/
def Obligations.RtiUndoesAnInterruptEntry : Prop :=
  ∀ s t u : State, s.fault = none → (interruptStep s.beginStep).isSome = true → step s = .next t →
    exec .rti t = .next u → u.regs = s.regs ∧ u.p = s.p &&& 0xEF

/-- R226, R227, R251: RTI after BRK resumes one byte past the byte after the opcode, with the status byte as pushed. The stack page
is stored on both buses (log entry 19). -/
def Obligations.RtiAfterBrkResumesPastThePaddingByte : Prop :=
  ∀ s t u : State, exec .brk s = .next t → exec .rti t = .next u →
    u.regs = (s.a, s.x, s.y, s.sp, s.pc + 1) ∧ u.p = s.p ||| 0x10

/-! ## The clock -/

/-- R293, R120: a completed step adds 2 to 7 cycles, or `INT_CYCLES` when it is an interrupt entry; a faulting step adds
none (it answers a next state by log entry 1; the base counts are log entry 14). -/
def Obligations.StepsCostTwoToSevenCycles : Prop :=
  ∀ s t : State, step s = .next t →
    ((interruptStep s.beginStep).isSome = true ∧ t.fault = none ∧ t.clk = s.clk + s.params.intCycles) ∨
    (interruptStep s.beginStep = none ∧ t.fault = none ∧ s.clk + 2 ≤ t.clk ∧ t.clk ≤ s.clk + 7) ∨
    (t.fault ≠ none ∧ t.clk = s.clk)

/-- R119, R280: `step_to` takes whole steps only, and every boundary before the one it stops at has `CLK < target` and no fault,
so that it stops at the first one at or past the target, or with a fault (the spec's decision D33); it takes none when the
target is met or the core has a fault; without a fault the clock it returns is at or past the target, by less than the largest
step cost. The inputs stay as they are during the call (log entry 15). -/
def Obligations.StepToReachesItsTarget : Prop :=
  ∀ (s : State) (target : Nat), 0 < s.params.intCycles → let t := stepTo target s
    (∃ n, Host.Core.run core n s = .next t ∧
      ∀ k < n, ∃ u, Host.Core.run core k s = .next u ∧ u.clk < target ∧ u.fault = none) ∧
    ((target ≤ s.clk ∨ s.fault ≠ none) → t = s) ∧
    (t.fault = none → target ≤ t.clk) ∧
    (s.clk < target → t.clk < target + max 7 s.params.intCycles)

/-! ## Who writes what -/

/-- R26: the complete writer table, for instructions: the only operations that change A, X, Y, SP, and PC beyond the fetch;
none changes the NMI latch, the fault record, the IRQ line or the parameters. -/
def Obligations.RegisterWriters : Prop :=
  ∀ (i : Instr) (s t : State), exec i s = .next t →
    (t.a ≠ s.a → i.op ∈ [Op.lda, .pla, .txa, .tya, .adc, .sbc, .and, .ora, .eor] ∨
      (i.op ∈ [Op.asl, .lsr, .rol, .ror] ∧ i.operand = .acc)) ∧
    (t.x ≠ s.x → i.op ∈ [Op.ldx, .tax, .tsx, .inx, .dex]) ∧
    (t.y ≠ s.y → i.op ∈ [Op.ldy, .tay, .iny, .dey]) ∧
    (t.sp ≠ s.sp → i.op ∈ [Op.pha, .php, .pla, .plp, .jsr, .rts, .brk, .rti, .txs]) ∧
    (t.pc ≠ s.pc → i.op ∈ [Op.bpl, .bmi, .bvc, .bvs, .bcc, .bcs, .bne, .beq, .jmp, .jsr, .rts, .rti, .brk]) ∧
    t.nmiPending = s.nmiPending ∧ t.fault = s.fault ∧ t.irqLine = s.irqLine ∧ t.params = s.params

/-- R18: the "set by" column, for instructions, bits 4 and 5 among them (R19: only PLP and RTI change those). -/
def Obligations.FlagWriters : Prop :=
  ∀ (i : Instr) (s t : State), exec i s = .next t →
    (t.flag .c ≠ s.flag .c → i.op ∈ [Op.adc, .sbc, .cmp, .cpx, .cpy, .asl, .lsr, .rol, .ror, .clc, .sec, .plp, .rti]) ∧
    (t.flag .z ≠ s.flag .z ∨ t.flag .n ≠ s.flag .n →
      i.op ∈ [Op.lda, .ldx, .ldy, .tax, .tay, .txa, .tya, .tsx, .pla, .adc, .sbc, .and, .ora, .eor, .cmp, .cpx, .cpy,
        .asl, .lsr, .rol, .ror, .inc, .dec, .inx, .iny, .dex, .dey, .bit, .plp, .rti]) ∧
    (t.flag .i ≠ s.flag .i → i.op ∈ [Op.sei, .cli, .brk, .plp, .rti]) ∧
    (t.flag .d ≠ s.flag .d → i.op ∈ [Op.sed, .cld, .plp, .rti]) ∧
    (t.flag .v ≠ s.flag .v → i.op ∈ [Op.adc, .sbc, .bit, .clv, .plp, .rti]) ∧
    (t.flag .b4 ≠ s.flag .b4 ∨ t.flag .b5 ≠ s.flag .b5 → i.op ∈ [Op.plp, .rti])

/-- The only operations that change a byte of memory. -/
def Obligations.MemoryWriters : Prop :=
  ∀ (i : Instr) (s t : State) (b : Word), exec i s = .next t → t.peek b ≠ s.peek b →
    i.op ∈ [Op.sta, .stx, .sty, .asl, .lsr, .rol, .ror, .inc, .dec, .pha, .php, .jsr, .brk] ∧ i.operand ≠ .acc

/-! ## Memory and the bus -/

/-- Two memories in canonical form that read the same at every address are the same data. -/
def Obligations.CanonicalMemoriesThatReadAlikeAreEqual : Prop :=
  ∀ m n : Memory, Memory.wf m = true → Memory.wf n = true → (∀ k, k < 65536 → Memory.read m k = Memory.read n k) → m = n

/-- R52: on the reference bus a byte written at an address of 0x0000 to 0x1FFF is observable at every mirror address, and at
no other address. -/
def Obligations.RamIsMirroredFourTimes : Prop :=
  ∀ (s : State) (a b : Word) (v : Byte), s.params.bus = .reference → a.toNat < 0x2000 →
    (memWrite a v s).peek b =
      if b.toNat < 0x2000 ∧ b.toNat % 0x0800 = a.toNat % 0x0800 then some v else s.peek b

/-- R55, R60: on the reference bus 0x4018 to 0x401F read 0x00, the I/O port reads its one value, and a write there changes
nothing. -/
def Obligations.StubAddressesReadOneValueAndIgnoreWrites : Prop :=
  ∀ (s : State) (a : Word) (v : Byte), s.params.bus = .reference →
    (0x4018 ≤ a.toNat → a.toNat ≤ 0x401F →
      (memRead a s).1 = 0x00 ∧ s.peek a = some 0x00 ∧ (memWrite a v s).mem = s.mem) ∧
    (0x4000 ≤ a.toNat → a.toNat ≤ 0x4017 → a ∈ s.params.ioPorts →
      (memRead a s).1 = s.params.ioStubValue ∧ s.peek a = some s.params.ioStubValue ∧ (memWrite a v s).mem = s.mem)

/-- R43, R44, R45: the three 16-bit reads of stored bytes: which two bytes, low byte first, and that nothing but the record of
the two reads changes. -/
def Obligations.SixteenBitReads : Prop :=
  ∀ (s : State) (l h : Byte),
    (∀ a : Word, s.peek a = some l → s.peek (BitVec.ofNat 16 (a.toNat + 1)) = some h →
      read16 a s = (join h l,
        { s with accesses := s.accesses ++ [.read a l, .read (BitVec.ofNat 16 (a.toNat + 1)) h] })) ∧
    (∀ z : Byte, s.peek (BitVec.ofNat 16 z.toNat) = some l →
      s.peek (BitVec.ofNat 16 ((z.toNat + 1) % 256)) = some h →
      read16Zp z s = (join h l, { s with accesses := s.accesses ++
        [.read (BitVec.ofNat 16 z.toNat) l, .read (BitVec.ofNat 16 ((z.toNat + 1) % 256)) h] })) ∧
    (∀ p : Word, s.peek p = some l →
      s.peek (BitVec.ofNat 16 (p.toNat / 256 * 256 + (p.toNat + 1) % 256)) = some h →
      read16Bug p s = (join h l, { s with accesses := s.accesses ++
        [.read p l, .read (BitVec.ofNat 16 (p.toNat / 256 * 256 + (p.toNat + 1) % 256)) h] }))

/-- R210, R211: a push writes the slot SP names and then decrements SP, which wraps within the page; a pop after it returns
the byte and restores SP, on both buses (log entry 19). -/
def Obligations.PopAfterPushReturnsTheByte : Prop :=
  ∀ (s : State) (v : Byte),
    (push v s).sp = s.sp - 1 ∧ StoresOnly (BitVec.ofNat 16 (0x0100 + s.sp.toNat)) v s (push v s) ∧
    (push v s).accesses = s.accesses ++ [.write (BitVec.ofNat 16 (0x0100 + s.sp.toNat)) v] ∧
    (pop (push v s)).1 = v ∧ (pop (push v s)).2.sp = s.sp ∧
    (pop (push v s)).2.accesses = (push v s).accesses ++ [.read (BitVec.ofNat 16 (0x0100 + s.sp.toNat)) v]

/-- R51, R286: a store to an address where the bus keeps a byte is seen by the very next fetch from that address. -/
def Obligations.StoreIsSeenByTheNextFetch : Prop :=
  ∀ (s : State) (v : Byte) (a : Word), hits s.params a s.pc = true → (fetch8 (memWrite a v s)).1 = v

/-! ## The resolver -/

/-- R92 to R100, R104, R105: the location of each mode that reads no pointer; nothing in the state changes. -/
def Obligations.ResolverLocationsWithoutPointer : Prop :=
  ∀ s : State,
    resolve .imp s = (.noLoc, s) ∧ resolve .acc s = (.accLoc, s) ∧ (∀ v, resolve (.imm v) s = (.immLoc v, s)) ∧
    (∀ z, resolve (.zp z) s = (.memLoc (BitVec.ofNat 16 z.toNat) false, s)) ∧
    (∀ z, resolve (.zpx z) s = (.memLoc (BitVec.ofNat 16 ((z.toNat + s.x.toNat) % 256)) false, s)) ∧
    (∀ z, resolve (.zpy z) s = (.memLoc (BitVec.ofNat 16 ((z.toNat + s.y.toNat) % 256)) false, s)) ∧
    (∀ a, resolve (.abs a) s = (.memLoc a false, s)) ∧
    (∀ a, resolve (.abx a) s = (.memLoc (BitVec.ofNat 16 (a.toNat + s.x.toNat))
      (decide ((a.toNat + s.x.toNat) % 65536 / 256 ≠ a.toNat / 256)), s)) ∧
    (∀ a, resolve (.aby a) s = (.memLoc (BitVec.ofNat 16 (a.toNat + s.y.toNat))
      (decide ((a.toNat + s.y.toNat) % 65536 / 256 ≠ a.toNat / 256)), s)) ∧
    (∀ o, resolve (.rel o) s = (.relLoc (BitVec.ofInt 16 (s.pc.toNat + o.toInt))
      (decide ((BitVec.ofInt 16 (s.pc.toNat + o.toInt)).toNat / 256 ≠ s.pc.toNat / 256)), s))

/-- R101 to R103: the location of the modes that read a pointer, from the bytes at the pointer, whose second byte lies in the
page of the first; zero page is stored on both buses (log entry 19). -/
def Obligations.ResolverLocationsThroughPointer : Prop :=
  ∀ s : State,
    (∀ (p : Word) (l h : Byte), s.peek p = some l →
      s.peek (BitVec.ofNat 16 (p.toNat / 256 * 256 + (p.toNat + 1) % 256)) = some h →
      (resolve (.ind p) s).1 = .memLoc (join h l) false) ∧
    (∀ b : Byte, ∃ l h, s.peek (BitVec.ofNat 16 ((b.toNat + s.x.toNat) % 256)) = some l ∧
      s.peek (BitVec.ofNat 16 ((b.toNat + s.x.toNat + 1) % 256)) = some h ∧
      (resolve (.izx b) s).1 = .memLoc (join h l) false) ∧
    (∀ z : Byte, ∃ l h, s.peek (BitVec.ofNat 16 z.toNat) = some l ∧
      s.peek (BitVec.ofNat 16 ((z.toNat + 1) % 256)) = some h ∧
      (resolve (.izy z) s).1 = .memLoc (BitVec.ofNat 16 (h.toNat * 256 + l.toNat + s.y.toNat))
        (decide ((h.toNat * 256 + l.toNat + s.y.toNat) % 65536 / 256 ≠ h.toNat)))

/-- R90, R109: resolving an operand changes nothing but the record of its pointer reads (and the count of forwarded
transactions), which are none, or two at the addresses R109 lists. -/
def Obligations.ResolverChangesNothingElse : Prop :=
  ∀ (o : Operand) (s : State), ∃ reads n,
    (resolve o s).2 = { s with accesses := s.accesses ++ reads, deviceCount := n } ∧
    (match o with
      | .ind p => ∃ l h, reads =
          [.read p l, .read (BitVec.ofNat 16 (p.toNat / 256 * 256 + (p.toNat + 1) % 256)) h]
      | .izx b => ∃ l h, reads = [.read (BitVec.ofNat 16 ((b.toNat + s.x.toNat) % 256)) l,
          .read (BitVec.ofNat 16 ((b.toNat + s.x.toNat + 1) % 256)) h]
      | .izy z => ∃ l h, reads =
          [.read (BitVec.ofNat 16 z.toNat) l, .read (BitVec.ofNat 16 ((z.toNat + 1) % 256)) h]
      | _ => reads = [])

/-! ## Loads, stores, transfers -/

/-- R125 to R127: LDA, LDX and LDY, in every form, write the loaded byte to their register and Z and N from it; one read of
the operand; nothing else changes. -/
def Obligations.LoadsWriteTheirRegister : Prop :=
  ∀ (i : Instr) (s : State), i.op ∈ [Op.lda, .ldx, .ldy] →
    ∃ t, exec i s = .next t ∧
      (i.op = .lda → i.opcode ∈ [0xA9#8, 0xA5, 0xB5, 0xAD, 0xBD, 0xB9, 0xA1, 0xB1] ∧
        t.regs = (operandByte i s, s.x, s.y, s.sp, s.pc)) ∧
      (i.op = .ldx → i.opcode ∈ [0xA2#8, 0xA6, 0xB6, 0xAE, 0xBE] ∧ t.regs = (s.a, operandByte i s, s.y, s.sp, s.pc)) ∧
      (i.op = .ldy → i.opcode ∈ [0xA0#8, 0xA4, 0xB4, 0xAC, 0xBC] ∧ t.regs = (s.a, s.x, operandByte i s, s.sp, s.pc)) ∧
      ZNFrom (operandByte i s) t ∧ FlagsKept [.z, .n] s t ∧ MemoryKept s t ∧
      t.accesses = afterResolve i s ++ loadAccess (operandLoc i s) (operandByte i s) ∧
      Completed i (operandLoc i s).crossing s t

/-- R128 to R130: STA, STX and STY, in every form, store their register at the effective address, which is not read first;
no flag, no register and no other byte changes. -/
def Obligations.StoresWriteTheEffectiveAddress : Prop :=
  ∀ (i : Instr) (s : State), i.op ∈ [Op.sta, .stx, .sty] →
    ∃ t a crossed v, exec i s = .next t ∧ operandLoc i s = .memLoc a crossed ∧
      (i.op = .sta → v = s.a ∧ i.opcode ∈ [0x85#8, 0x95, 0x8D, 0x9D, 0x99, 0x81, 0x91]) ∧
      (i.op = .stx → v = s.x ∧ i.opcode ∈ [0x86#8, 0x96, 0x8E]) ∧
      (i.op = .sty → v = s.y ∧ i.opcode ∈ [0x84#8, 0x94, 0x8C]) ∧
      StoresOnly a v s t ∧ t.accesses = afterResolve i s ++ [.write a v] ∧
      t.regs = s.regs ∧ t.p = s.p ∧ Completed i 0 s t

/-- R131 to R134, R217: TAX, TAY, TXA, TYA and TSX move a register and set Z and N from the value moved. -/
def Obligations.TransfersMoveAndSetZN : Prop :=
  ∀ s : State,
    ∀ r ∈ [(Instr.tax, (0xAA : Byte), s.a, (s.a, s.a, s.y, s.sp, s.pc)), (.tay, 0xA8, s.a, (s.a, s.x, s.a, s.sp, s.pc)),
      (.txa, 0x8A, s.x, (s.x, s.x, s.y, s.sp, s.pc)), (.tya, 0x98, s.y, (s.y, s.x, s.y, s.sp, s.pc)),
      (.tsx, 0xBA, s.sp, (s.a, s.sp, s.y, s.sp, s.pc))],
    ∃ t, exec r.1 s = .next t ∧ encode r.1 = [r.2.1] ∧ t.regs = r.2.2.2 ∧ ZNFrom r.2.2.1 t ∧ FlagsKept [.z, .n] s t ∧
      MemoryKept s t ∧ t.accesses = s.accesses ∧ t.clk = s.clk + 2 ∧ Completed r.1 0 s t

/-- R216, R225: TXS writes X to SP and no flag; NOP changes nothing but the clock. -/
def Obligations.TxsAndNopChangeNoFlag : Prop :=
  ∀ s : State,
    (∃ t, exec .txs s = .next t ∧ encode .txs = [0x9A] ∧ t.regs = (s.a, s.x, s.y, s.x, s.pc) ∧ t.p = s.p ∧
      MemoryKept s t ∧ t.accesses = s.accesses ∧ t.clk = s.clk + 2 ∧ Completed .txs 0 s t) ∧
    (∃ t, exec .nop s = .next t ∧ encode .nop = [0xEA] ∧ t.regs = s.regs ∧ t.p = s.p ∧
      MemoryKept s t ∧ t.accesses = s.accesses ∧ t.clk = s.clk + 2 ∧ Completed .nop 0 s t)

/-! ## Arithmetic and compare -/

/-- R140, R141: ADC, in every form: the sum of A, the operand and the carry, its carry out, the overflow formula of R140, and
Z and N from the truncated result. -/
def Obligations.AdcAddsWithCarry : Prop :=
  ∀ (i : Instr) (s : State), i.op = .adc →
    ∃ t, exec i s = .next t ∧ i.opcode ∈ [0x69#8, 0x65, 0x75, 0x6D, 0x7D, 0x79, 0x61, 0x71] ∧
      let m := operandByte i s
      let sum := s.a.toNat + m.toNat + (if s.flag .c then 1 else 0)
      t.regs = (BitVec.ofNat 8 sum, s.x, s.y, s.sp, s.pc) ∧ (t.flag .c = true ↔ 0xFF < sum) ∧
      (t.flag .v = true ↔ ((s.a ^^^ t.a) &&& (m ^^^ t.a) &&& 0x80) ≠ 0) ∧
      ZNFrom t.a t ∧ FlagsKept [.c, .z, .v, .n] s t ∧ MemoryKept s t ∧
      t.accesses = afterResolve i s ++ loadAccess (operandLoc i s) m ∧ Completed i (operandLoc i s).crossing s t

/-- R142: SBC, in every form: `wrap8(A - M - (1 - P.C))`, C = 1 when no borrow occurred, V by the overflow formula on the
complemented operand, which is 1 when the signed difference is outside -128 to 127, Z and N from the result. -/
def Obligations.SbcSubtractsWithBorrow : Prop :=
  ∀ (i : Instr) (s : State), i.op = .sbc →
    ∃ t, exec i s = .next t ∧ i.opcode ∈ [0xE9#8, 0xE5, 0xF5, 0xED, 0xFD, 0xF9, 0xE1, 0xF1] ∧
      let m := operandByte i s
      let borrow : Int := if s.flag .c then 0 else 1
      t.regs = (BitVec.ofInt 8 ((s.a.toNat : Int) - m.toNat - borrow), s.x, s.y, s.sp, s.pc) ∧
      (t.flag .c = true ↔ (m.toNat : Int) + borrow ≤ s.a.toNat) ∧
      (t.flag .v = true ↔ ((s.a ^^^ t.a) &&& ((m ^^^ 0xFF) ^^^ t.a) &&& 0x80) ≠ 0) ∧
      (t.flag .v = true ↔ s.a.toInt - m.toInt - borrow < -128 ∨ 127 < s.a.toInt - m.toInt - borrow) ∧
      ZNFrom t.a t ∧ FlagsKept [.c, .z, .v, .n] s t ∧ MemoryKept s t ∧
      t.accesses = afterResolve i s ++ loadAccess (operandLoc i s) m ∧ Completed i (operandLoc i s).crossing s t

/-- What V means after ADC (derived from the formula of R140, as the spec marks it): the signed sum of A, the operand and the
carry lies outside -128 to 127. -/
def Obligations.AdcOverflowIsSignedOverflow : Prop :=
  ∀ (i : Instr) (s t : State), i.op = .adc → exec i s = .next t →
    let sum := s.a.toInt + (operandByte i s).toInt + (if s.flag .c then 1 else 0)
    (t.flag .v = true ↔ sum < -128 ∨ 127 < sum)

/-- R147: ADC and SBC compute with D = 1 exactly as with D = 0. -/
def Obligations.DecimalFlagDoesNotAffectAdcOrSbc : Prop :=
  ∀ (i : Instr) (s t : State) (b : Bool), i.op = .adc ∨ i.op = .sbc → exec i s = .next t →
    exec i (s.setFlag .d b) = .next (t.setFlag .d b)

/-- R143 to R146: CMP, CPX and CPY, in every form: C set iff the register is at least the operand, unsigned; Z and N from the
wrapped difference; V, the registers and memory unchanged; the carry-in not read. -/
def Obligations.ComparesSetCarryZeroNegative : Prop :=
  ∀ (i : Instr) (s : State), i.op ∈ [Op.cmp, .cpx, .cpy] →
    ∃ t reg, exec i s = .next t ∧
      (i.op = .cmp → reg = s.a ∧ i.opcode ∈ [0xC9#8, 0xC5, 0xD5, 0xCD, 0xDD, 0xD9, 0xC1, 0xD1]) ∧
      (i.op = .cpx → reg = s.x ∧ i.opcode ∈ [0xE0#8, 0xE4, 0xEC]) ∧
      (i.op = .cpy → reg = s.y ∧ i.opcode ∈ [0xC0#8, 0xC4, 0xCC]) ∧
      (t.flag .c = true ↔ (operandByte i s).toNat ≤ reg.toNat) ∧
      ZNFrom (BitVec.ofNat 8 (reg.toNat + 0x100 - (operandByte i s).toNat)) t ∧ FlagsKept [.c, .z, .n] s t ∧
      t.regs = s.regs ∧ MemoryKept s t ∧
      t.accesses = afterResolve i s ++ loadAccess (operandLoc i s) (operandByte i s) ∧
      Completed i (operandLoc i s).crossing s t

/-! ## Logic, shifts, increments -/

/-- R160 to R162: AND, ORA and EOR, in every form. -/
def Obligations.LogicWritesTheAccumulator : Prop :=
  ∀ (i : Instr) (s : State), i.op ∈ [Op.and, .ora, .eor] →
    ∃ t, exec i s = .next t ∧
      (i.op = .and → t.a = s.a &&& operandByte i s ∧ i.opcode ∈ [0x29#8, 0x25, 0x35, 0x2D, 0x3D, 0x39, 0x21, 0x31]) ∧
      (i.op = .ora → t.a = s.a ||| operandByte i s ∧ i.opcode ∈ [0x09#8, 0x05, 0x15, 0x0D, 0x1D, 0x19, 0x01, 0x11]) ∧
      (i.op = .eor → t.a = s.a ^^^ operandByte i s ∧ i.opcode ∈ [0x49#8, 0x45, 0x55, 0x4D, 0x5D, 0x59, 0x41, 0x51]) ∧
      t.regs = (t.a, s.x, s.y, s.sp, s.pc) ∧ ZNFrom t.a t ∧ FlagsKept [.z, .n] s t ∧ MemoryKept s t ∧
      t.accesses = afterResolve i s ++ loadAccess (operandLoc i s) (operandByte i s) ∧
      Completed i (operandLoc i s).crossing s t

/-- R163: BIT, in both forms: Z from A and M, N and V from bits 7 and 6 of M itself; A, memory and the other flags kept. -/
def Obligations.BitTestsTheOperand : Prop :=
  ∀ (i : Instr) (s : State), i.op = .bit →
    ∃ t, exec i s = .next t ∧ i.opcode ∈ [0x24#8, 0x2C] ∧
      (t.flag .z = true ↔ s.a &&& operandByte i s = 0) ∧ (t.flag .n = true ↔ 0x80 ≤ (operandByte i s).toNat) ∧
      (t.flag .v = true ↔ 0x40 ≤ (operandByte i s).toNat % 0x80) ∧ FlagsKept [.z, .v, .n] s t ∧ t.regs = s.regs ∧
      MemoryKept s t ∧ t.accesses = afterResolve i s ++ loadAccess (operandLoc i s) (operandByte i s) ∧
      Completed i 0 s t

/-- R164 to R169: ASL, LSR, ROL and ROR, on the accumulator and on memory: the shifted value, as a number, in place of the
old one; C is the bit shifted off, the old C enters a rotate; Z and N from the new value. -/
def Obligations.ShiftsReplaceTheirOperand : Prop :=
  ∀ (i : Instr) (s : State), i.op ∈ [Op.asl, .lsr, .rol, .ror] →
    ∃ t r, exec i s = .next t ∧
      let v := (operandByte i s).toNat
      let c := if s.flag .c then 1 else 0
      (i.op = .asl → i.opcode ∈ [0x0A#8, 0x06, 0x16, 0x0E, 0x1E] ∧ r = BitVec.ofNat 8 (v * 2) ∧
        (t.flag .c = true ↔ 0x80 ≤ v)) ∧
      (i.op = .lsr → i.opcode ∈ [0x4A#8, 0x46, 0x56, 0x4E, 0x5E] ∧ r = BitVec.ofNat 8 (v / 2) ∧
        (t.flag .c = true ↔ v % 2 = 1)) ∧
      (i.op = .rol → i.opcode ∈ [0x2A#8, 0x26, 0x36, 0x2E, 0x3E] ∧ r = BitVec.ofNat 8 (v * 2 + c) ∧
        (t.flag .c = true ↔ 0x80 ≤ v)) ∧
      (i.op = .ror → i.opcode ∈ [0x6A#8, 0x66, 0x76, 0x6E, 0x7E] ∧ r = BitVec.ofNat 8 (v / 2 + 0x80 * c) ∧
        (t.flag .c = true ↔ v % 2 = 1)) ∧
      Replaces (operandLoc i s) r s t ∧ ZNFrom r t ∧ FlagsKept [.c, .z, .n] s t ∧
      t.regs = (t.a, s.x, s.y, s.sp, s.pc) ∧
      t.accesses = afterResolve i s ++ loadAccess (operandLoc i s) (operandByte i s) ++ storeAccess (operandLoc i s) r ∧
      Completed i 0 s t

/-- R180, R181, R169: INC and DEC, in every form: the byte at the effective address plus or minus 1 modulo 256; one read,
one write; Z and N from the new value; A, C and V unchanged. -/
def Obligations.IncAndDecReplaceAByte : Prop :=
  ∀ (i : Instr) (s : State), i.op = .inc ∨ i.op = .dec →
    ∃ t r, exec i s = .next t ∧
      (i.op = .inc → i.opcode ∈ [0xE6#8, 0xF6, 0xEE, 0xFE] ∧ r = BitVec.ofNat 8 ((operandByte i s).toNat + 1)) ∧
      (i.op = .dec → i.opcode ∈ [0xC6#8, 0xD6, 0xCE, 0xDE] ∧ r = BitVec.ofNat 8 ((operandByte i s).toNat + 255)) ∧
      Replaces (operandLoc i s) r s t ∧ ZNFrom r t ∧ FlagsKept [.z, .n] s t ∧ t.regs = s.regs ∧
      t.accesses = afterResolve i s ++ loadAccess (operandLoc i s) (operandByte i s) ++ storeAccess (operandLoc i s) r ∧
      Completed i 0 s t

/-- R182 to R185: INX, INY, DEX and DEY, modulo 256, with Z and N from the result. -/
def Obligations.IndexRegistersCountModulo256 : Prop :=
  ∀ s : State,
    ∀ r ∈ [(Instr.inx, (0xE8 : Byte), s.x + 1, (s.a, s.x + 1, s.y, s.sp, s.pc)),
      (.iny, 0xC8, s.y + 1, (s.a, s.x, s.y + 1, s.sp, s.pc)),
      (.dex, 0xCA, s.x - 1, (s.a, s.x - 1, s.y, s.sp, s.pc)),
      (.dey, 0x88, s.y - 1, (s.a, s.x, s.y - 1, s.sp, s.pc))],
    ∃ t, exec r.1 s = .next t ∧ encode r.1 = [r.2.1] ∧ t.regs = r.2.2.2 ∧ ZNFrom r.2.2.1 t ∧ FlagsKept [.z, .n] s t ∧
      MemoryKept s t ∧ t.accesses = s.accesses ∧ t.clk = s.clk + 2 ∧ Completed r.1 0 s t

/-! ## Branches, jumps, call and return -/

/-- R190 to R198, R104, R118: each branch tests one flag against one state; taken, PC becomes the address of the next
instruction plus the signed offset, and the cost is 3, or 4 when the target is in another page; not taken, PC stays and the
cost is 2. No flag, register or byte of memory changes. -/
def Obligations.BranchesTestOneFlag : Prop :=
  ∀ (s : State) (o : Byte),
    ∀ r ∈ [(Instr.bpl o, (0x10 : Byte), Flag.n, false), (.bmi o, 0x30, .n, true), (.bvc o, 0x50, .v, false),
      (.bvs o, 0x70, .v, true), (.bcc o, 0x90, .c, false), (.bcs o, 0xB0, .c, true), (.bne o, 0xD0, .z, false),
      (.beq o, 0xF0, .z, true)],
    ∃ t, exec r.1 s = .next t ∧ encode r.1 = [r.2.1, o] ∧
      let target := BitVec.ofInt 16 (s.pc.toNat + o.toInt)
      t.pc = (if s.flag r.2.2.1 = r.2.2.2 then target else s.pc) ∧
      t.clk = s.clk + (if s.flag r.2.2.1 = r.2.2.2 then (if target.toNat / 256 = s.pc.toNat / 256 then 3 else 4) else 2) ∧
      t.regs = (s.a, s.x, s.y, s.sp, t.pc) ∧ t.p = s.p ∧ MemoryKept s t ∧ t.accesses = s.accesses ∧
      t.nmiPending = s.nmiPending ∧ t.fault = s.fault ∧ t.irqLine = s.irqLine ∧ t.params = s.params

/-- R199: JMP sets PC to the effective address, absolute (3 cycles) or through the pointer (5 cycles), and makes no load from
it. -/
def Obligations.JmpSetsPcToTheEffectiveAddress : Prop :=
  ∀ (i : Instr) (s : State), i.op = .jmp →
    ∃ t a, exec i s = .next t ∧ operandLoc i s = .memLoc a false ∧ t.regs = (s.a, s.x, s.y, s.sp, a) ∧ t.p = s.p ∧
      (∀ w, i = .jmpAbs w → a = w ∧ i.opcode = 0x4C ∧ t.clk = s.clk + 3) ∧
      (∀ w, i = .jmpInd w → a = (read16Bug w s).1 ∧ i.opcode = 0x6C ∧ t.clk = s.clk + 5) ∧
      MemoryKept s t ∧ t.accesses = afterResolve i s ∧ Completed i 0 s t

/-- R200: JSR pushes PC - 1, high byte then low byte, and jumps. -/
def Obligations.JsrPushesTheReturnAddress : Prop :=
  ∀ (s : State) (w : Word),
    ∃ t, exec (.jsr w) s = .next t ∧ encode (.jsr w) = [0x20, lo w, hi w] ∧ t.regs = (s.a, s.x, s.y, s.sp - 2, w) ∧
      t.p = s.p ∧
      (∀ b, t.peek b =
        if hits s.params (stackAddr s.sp) b then some (hi (s.pc - 1))
        else if hits s.params (stackAddr (s.sp - 1)) b then some (lo (s.pc - 1))
        else s.peek b) ∧
      t.accesses = s.accesses ++
        [.write (stackAddr s.sp) (hi (s.pc - 1)), .write (stackAddr (s.sp - 1)) (lo (s.pc - 1))] ∧
      t.clk = s.clk + 6 ∧ Completed (.jsr w) 0 s t

/-- R201: RTS pops the low byte and the high byte and continues at that address plus 1. The stack page is stored on both buses
(log entry 19). -/
def Obligations.RtsReturnsPastThePoppedAddress : Prop :=
  ∀ s : State,
    ∃ t l h, exec .rts s = .next t ∧ encode .rts = [0x60] ∧ s.peek (stackAddr (s.sp + 1)) = some l ∧
      s.peek (stackAddr (s.sp + 2)) = some h ∧ t.regs = (s.a, s.x, s.y, s.sp + 2, join h l + 1) ∧ t.p = s.p ∧
      MemoryKept s t ∧
      t.accesses = s.accesses ++ [.read (stackAddr (s.sp + 1)) l, .read (stackAddr (s.sp + 2)) h] ∧
      t.clk = s.clk + 6 ∧ Completed .rts 0 s t

/-- RTS straight after JSR returns to the instruction after the JSR, with every register and flag as before the call.
The stack page is stored on both buses (log entry 19). -/
def Obligations.RtsUndoesJsr : Prop :=
  ∀ (s t u : State) (w : Word), exec (.jsr w) s = .next t → exec .rts t = .next u → u.regs = s.regs ∧ u.p = s.p

/-! ## Stack, flags, system -/

/-- R212, R214: PHA and PHP push A and all eight bits of P as stored. -/
def Obligations.PushInstructionsStoreOneByte : Prop :=
  ∀ s : State, ∀ r ∈ [(Instr.pha, (0x48 : Byte), s.a), (.php, 0x08, s.p)],
    ∃ t, exec r.1 s = .next t ∧ encode r.1 = [r.2.1] ∧ t.regs = (s.a, s.x, s.y, s.sp - 1, s.pc) ∧ t.p = s.p ∧
      StoresOnly (stackAddr s.sp) r.2.2 s t ∧ t.accesses = s.accesses ++ [.write (stackAddr s.sp) r.2.2] ∧
      t.clk = s.clk + 3 ∧ Completed r.1 0 s t

/-- R213, R215: PLA pulls a byte into A and sets Z and N from it; PLP pulls all eight bits of P. The stack page
is stored on both buses (log entry 19). -/
def Obligations.PullInstructionsLoadOneByte : Prop :=
  ∀ s : State, ∃ v, s.peek (stackAddr (s.sp + 1)) = some v ∧
    (∃ t, exec .pla s = .next t ∧ encode .pla = [0x68] ∧ t.regs = (v, s.x, s.y, s.sp + 1, s.pc) ∧ ZNFrom v t ∧
      FlagsKept [.z, .n] s t ∧ MemoryKept s t ∧ t.accesses = s.accesses ++ [.read (stackAddr (s.sp + 1)) v] ∧
      t.clk = s.clk + 4 ∧ Completed .pla 0 s t) ∧
    (∃ t, exec .plp s = .next t ∧ encode .plp = [0x28] ∧ t.regs = (s.a, s.x, s.y, s.sp + 1, s.pc) ∧ t.p = v ∧
      MemoryKept s t ∧ t.accesses = s.accesses ++ [.read (stackAddr (s.sp + 1)) v] ∧
      t.clk = s.clk + 4 ∧ Completed .plp 0 s t)

/-- R19: PHP then PLP leaves P unchanged in every bit, and a byte popped by PLP and pushed again by PHP is pushed as it
was. The stack page is stored on both buses (log entry 19). -/
def Obligations.StatusByteRoundTripsThroughTheStack : Prop :=
  ∀ s t u : State,
    (exec .php s = .next t → exec .plp t = .next u → u.p = s.p ∧ u.sp = s.sp) ∧
    (exec .plp s = .next t → exec .php t = .next u →
      u.peek (stackAddr t.sp) = s.peek (stackAddr (s.sp + 1)) ∧ u.sp = s.sp)

/-- R218 to R224: each flag-control instruction writes one bit of P and nothing else, in 2 cycles, with no bus access. -/
def Obligations.FlagInstructionsWriteOneBit : Prop :=
  ∀ s : State,
    ∀ r ∈ [(Instr.clc, (0x18 : Byte), Flag.c, false), (.sec, 0x38, .c, true), (.cli, 0x58, .i, false),
      (.sei, 0x78, .i, true), (.clv, 0xB8, .v, false), (.cld, 0xD8, .d, false), (.sed, 0xF8, .d, true)],
    ∃ t, exec r.1 s = .next t ∧ encode r.1 = [r.2.1] ∧ t.flag r.2.2.1 = r.2.2.2 ∧ FlagsKept [r.2.2.1] s t ∧
      t.regs = s.regs ∧ MemoryKept s t ∧ t.accesses = s.accesses ∧ t.clk = s.clk + 2 ∧ Completed r.1 0 s t

/-- R226: BRK takes the interrupt sequence through the IRQ vector whatever I is, pushing the opcode's address plus 2 and P
with bit 4 set in the pushed copy only, in 7 cycles. -/
def Obligations.BrkTakesTheIrqVector : Prop :=
  ∀ s : State,
    ∃ t, exec .brk s = .next t ∧ encode .brk = [0x00] ∧
      InterruptTaken 0xFFFE (BitVec.ofNat 16 (s.pc.toNat + 1)) (s.p ||| 0x10) s.accesses s t ∧
      t.clk = s.clk + 7 ∧ Completed .brk 0 s t

/-- R227: RTI pops all eight bits of P, then the low and the high byte of PC, with no increment, in 6 cycles. The stack
page is stored on both buses (log entry 19). -/
def Obligations.RtiPopsStatusAndPc : Prop :=
  ∀ s : State,
    ∃ t p l h, exec .rti s = .next t ∧ encode .rti = [0x40] ∧ s.peek (stackAddr (s.sp + 1)) = some p ∧
      s.peek (stackAddr (s.sp + 2)) = some l ∧ s.peek (stackAddr (s.sp + 3)) = some h ∧
      t.regs = (s.a, s.x, s.y, s.sp + 3, join h l) ∧ t.p = p ∧ MemoryKept s t ∧
      t.accesses = s.accesses ++ [.read (stackAddr (s.sp + 1)) p, .read (stackAddr (s.sp + 2)) l,
        .read (stackAddr (s.sp + 3)) h] ∧
      t.clk = s.clk + 6 ∧ Completed .rti 0 s t

/-- R20, with the bit numbers of R18: `flag` reads its bit of P; `set_flag` writes its bit and no other; `SetZN` sets Z iff
the value is zero and N iff bit 7 is set, independent of the prior flags, and changes no other bit. -/
def Obligations.FlagLogicWritesOnlyItsBits : Prop :=
  ∀ s : State,
    (∀ r ∈ [(Flag.c, 0), (.z, 1), (.i, 2), (.d, 3), (.b4, 4), (.b5, 5), (.v, 6), (.n, 7)], s.flag r.1 = s.p.getLsbD r.2) ∧
    (∀ (f : Flag) (b : Bool), (s.setFlag f b).flag f = b ∧ FlagsKept [f] s (s.setFlag f b) ∧
      s.setFlag f b = { s with p := (s.setFlag f b).p }) ∧
    (∀ v : Byte, ZNFrom v (s.setZN v) ∧ FlagsKept [.z, .n] s (s.setZN v) ∧ s.setZN v = { s with p := (s.setZN v).p })
end

