-- ==== Sys2Proof/Laws/Bits.lean ====
section
/-! SUPPORT. Byte order: halves and their join, as numbers. -/

namespace Sys2Proof

theorem hi_toNat (w : Word) : (hi w).toNat = w.toNat / 256 := by
  have := w.isLt
  simp only [hi, BitVec.toNat_ofNat]
  omega

theorem lo_toNat (w : Word) : (lo w).toNat = w.toNat % 256 := by
  simp only [lo, BitVec.toNat_ofNat]

theorem join_toNat (h l : Byte) : (join h l).toNat = h.toNat * 256 + l.toNat := by
  have := h.isLt
  have := l.isLt
  simp only [join, BitVec.toNat_ofNat]
  omega

theorem zext_toNat (b : Byte) : (zext b).toNat = b.toNat := by
  have := b.isLt
  simp only [zext, BitVec.toNat_setWidth]
  omega

@[simp] theorem hi_join (h l : Byte) : hi (join h l) = h := by
  have := l.isLt
  apply BitVec.eq_of_toNat_eq
  rw [hi_toNat, join_toNat]
  omega

@[simp] theorem lo_join (h l : Byte) : lo (join h l) = l := by
  have := l.isLt
  apply BitVec.eq_of_toNat_eq
  rw [lo_toNat, join_toNat]
  omega

@[simp] theorem join_hi_lo (w : Word) : join (hi w) (lo w) = w := by
  apply BitVec.eq_of_toNat_eq
  rw [join_toNat, hi_toNat, lo_toNat]
  omega

end Sys2Proof
end

