-- ==== Sys2Proof/Laws/Memory.lean ====
section
/-! SUPPORT. Stored bytes: a write is read back and leaves every other byte alone; every operation keeps the canonical form. -/

namespace Sys2Proof.Machine

theorem Memory.wfFrom_mono {lo lo' : Nat} (h : lo' ≤ lo) :
    ∀ m : Memory, Memory.wfFrom lo m = true → Memory.wfFrom lo' m = true
  | [], _ => rfl
  | (k, v) :: rest, hw => by
    simp only [Memory.wfFrom, Bool.and_eq_true, decide_eq_true_eq] at hw ⊢
    exact ⟨⟨⟨by omega, hw.1.1.2⟩, hw.1.2⟩, hw.2⟩

theorem Memory.erase_wfFrom (k : Nat) : ∀ (m : Memory) {lo : Nat}, Memory.wfFrom lo m = true →
    Memory.wfFrom lo (Memory.erase m k) = true
  | [], _, _ => rfl
  | (j, w) :: rest, lo, hw => by
    simp only [Memory.wfFrom, Bool.and_eq_true, decide_eq_true_eq] at hw
    have ih := Memory.erase_wfFrom k rest hw.2
    by_cases h : j = k
    · simp only [Memory.erase, h, if_true]
      exact Memory.wfFrom_mono (by omega) _ ih
    · simp only [Memory.erase, h, if_false, Memory.wfFrom, Bool.and_eq_true, decide_eq_true_eq]
      exact ⟨hw.1, ih⟩

/-- Every entry of the memory is at another address than `k`. -/
def Memory.free (m : Memory) (k : Nat) : Prop := ∀ c ∈ m, c.1 ≠ k

theorem Memory.erase_free (k : Nat) : ∀ m : Memory, Memory.free (Memory.erase m k) k
  | [] => by simp [Memory.erase, Memory.free]
  | (j, w) :: rest => by
    have ih := Memory.erase_free k rest
    by_cases h : j = k
    · simpa only [Memory.erase, h, if_true] using ih
    · simpa [Memory.erase, h, Memory.free] using ih

theorem Memory.insert_wfFrom {k : Nat} {v : Byte} (hk : k < 65536) (hv : v ≠ Memory.unlisted) :
    ∀ (m : Memory) {lo : Nat}, Memory.wfFrom lo m = true → Memory.free m k → lo ≤ k →
    Memory.wfFrom lo (Memory.insert m k v) = true
  | [], lo, _, _, hlo => by simp [Memory.insert, Memory.wfFrom, hk, hv, hlo]
  | (j, w) :: rest, lo, hw, hf, hlo => by
    simp only [Memory.wfFrom, Bool.and_eq_true, decide_eq_true_eq] at hw
    have hj : j ≠ k := hf (j, w) (by simp)
    have hf' : Memory.free rest k := fun c hc => hf c (by simp [hc])
    by_cases h : j < k
    · have ih := Memory.insert_wfFrom hk hv rest hw.2 hf' (show j + 1 ≤ k by omega)
      simp only [Memory.insert, h, if_true, Memory.wfFrom, Bool.and_eq_true, decide_eq_true_eq]
      exact ⟨hw.1, ih⟩
    · have hkj : k + 1 ≤ j := by omega
      simp only [Memory.insert, h, if_false, Memory.wfFrom, Bool.and_eq_true, decide_eq_true_eq]
      exact ⟨⟨⟨hlo, hk⟩, by simpa using hv⟩, ⟨⟨⟨hkj, hw.1.1.2⟩, hw.1.2⟩, hw.2⟩⟩

/-- A write keeps the canonical form. -/
theorem Memory.write_wf {m : Memory} {k : Nat} (v : Byte) (hw : Memory.wf m = true) (hk : k < 65536) :
    Memory.wf (Memory.write m k v) = true := by
  have he : Memory.wfFrom 0 (Memory.erase m k) = true := Memory.erase_wfFrom k m hw
  by_cases hv : v = Memory.unlisted
  · simpa [Memory.write, hv, Memory.wf] using he
  · simpa [Memory.write, hv, Memory.wf] using
      Memory.insert_wfFrom hk hv _ he (Memory.erase_free k m) (Nat.zero_le k)

@[simp] theorem Memory.wf_nil : Memory.wf [] = true := rfl

@[simp] theorem Memory.read_nil (k : Nat) : Memory.read [] k = Memory.unlisted := rfl

theorem Memory.read_erase (k i : Nat) : ∀ m : Memory,
    Memory.read (Memory.erase m k) i = if i = k then Memory.unlisted else Memory.read m i
  | [] => by simp [Memory.erase]
  | (j, w) :: rest => by
    have ih := Memory.read_erase k i rest
    by_cases hk : j = k
    · subst hk
      by_cases hi : j = i
      · simpa [Memory.erase, hi] using ih
      · simpa [Memory.erase, Memory.read, hi] using ih
    · by_cases hi : j = i
      · subst hi
        simp [Memory.erase, Memory.read, hk]
      · simpa [Memory.erase, Memory.read, hk, hi] using ih

theorem Memory.read_insert (k i : Nat) (v : Byte) : ∀ m : Memory,
    Memory.read (Memory.insert m k v) i = if i = k then v else Memory.read m i
  | [] => by
    by_cases hi : i = k
    · simp [Memory.insert, Memory.read, hi]
    · simp [Memory.insert, Memory.read, hi, Ne.symm hi]
  | (j, w) :: rest => by
    have ih := Memory.read_insert k i v rest
    by_cases h : j < k
    · by_cases hi : j = i
      · subst hi
        have hne : j ≠ k := by omega
        simp [Memory.insert, Memory.read, h, hne]
      · simpa [Memory.insert, Memory.read, h, hi] using ih
    · by_cases hi : i = k
      · simp [Memory.insert, Memory.read, h, hi]
      · simp [Memory.insert, Memory.read, h, hi, Ne.symm hi]

/-- Read after write, of any memory. -/
theorem Memory.read_write (m : Memory) (k : Nat) (v : Byte) (i : Nat) :
    Memory.read (Memory.write m k v) i = if i = k then v else Memory.read m i := by
  by_cases hv : v = Memory.unlisted
  · simp only [Memory.write, hv, if_true, Memory.read_erase]
  · simp only [Memory.write, hv, if_false, Memory.read_insert, Memory.read_erase]
    split <;> rfl

end Sys2Proof.Machine
end

