-- ==== Sys2Proof/Laws/State.lean ====
section
/-! SUPPORT. One lemma for each field of State and each named update, so that no proof unfolds a record update. -/

namespace Sys2Proof.Machine

variable (s : State)

@[simp] theorem setA_a (v : Byte) : (s.setA v).a = v := rfl
@[simp] theorem setA_x (v : Byte) : (s.setA v).x = s.x := rfl
@[simp] theorem setA_y (v : Byte) : (s.setA v).y = s.y := rfl
@[simp] theorem setA_sp (v : Byte) : (s.setA v).sp = s.sp := rfl
@[simp] theorem setA_pc (v : Byte) : (s.setA v).pc = s.pc := rfl
@[simp] theorem setA_p (v : Byte) : (s.setA v).p = s.p := rfl
@[simp] theorem setA_clk (v : Byte) : (s.setA v).clk = s.clk := rfl
@[simp] theorem setA_nmiPending (v : Byte) : (s.setA v).nmiPending = s.nmiPending := rfl
@[simp] theorem setA_fault (v : Byte) : (s.setA v).fault = s.fault := rfl
@[simp] theorem setA_irqLine (v : Byte) : (s.setA v).irqLine = s.irqLine := rfl
@[simp] theorem setA_mem (v : Byte) : (s.setA v).mem = s.mem := rfl
@[simp] theorem setA_params (v : Byte) : (s.setA v).params = s.params := rfl
@[simp] theorem setA_deviceCount (v : Byte) : (s.setA v).deviceCount = s.deviceCount := rfl
@[simp] theorem setA_accesses (v : Byte) : (s.setA v).accesses = s.accesses := rfl
@[simp] theorem setA_flag (v : Byte) (f : Flag) : (s.setA v).flag f = s.flag f := rfl
@[simp] theorem setA_peek (v : Byte) (w : Word) : (s.setA v).peek w = s.peek w := rfl
@[simp] theorem setA_busByte (v : Byte) (w : Word) : (s.setA v).busByte w = s.busByte w := rfl

@[simp] theorem setX_a (v : Byte) : (s.setX v).a = s.a := rfl
@[simp] theorem setX_x (v : Byte) : (s.setX v).x = v := rfl
@[simp] theorem setX_y (v : Byte) : (s.setX v).y = s.y := rfl
@[simp] theorem setX_sp (v : Byte) : (s.setX v).sp = s.sp := rfl
@[simp] theorem setX_pc (v : Byte) : (s.setX v).pc = s.pc := rfl
@[simp] theorem setX_p (v : Byte) : (s.setX v).p = s.p := rfl
@[simp] theorem setX_clk (v : Byte) : (s.setX v).clk = s.clk := rfl
@[simp] theorem setX_nmiPending (v : Byte) : (s.setX v).nmiPending = s.nmiPending := rfl
@[simp] theorem setX_fault (v : Byte) : (s.setX v).fault = s.fault := rfl
@[simp] theorem setX_irqLine (v : Byte) : (s.setX v).irqLine = s.irqLine := rfl
@[simp] theorem setX_mem (v : Byte) : (s.setX v).mem = s.mem := rfl
@[simp] theorem setX_params (v : Byte) : (s.setX v).params = s.params := rfl
@[simp] theorem setX_deviceCount (v : Byte) : (s.setX v).deviceCount = s.deviceCount := rfl
@[simp] theorem setX_accesses (v : Byte) : (s.setX v).accesses = s.accesses := rfl
@[simp] theorem setX_flag (v : Byte) (f : Flag) : (s.setX v).flag f = s.flag f := rfl
@[simp] theorem setX_peek (v : Byte) (w : Word) : (s.setX v).peek w = s.peek w := rfl
@[simp] theorem setX_busByte (v : Byte) (w : Word) : (s.setX v).busByte w = s.busByte w := rfl

@[simp] theorem setY_a (v : Byte) : (s.setY v).a = s.a := rfl
@[simp] theorem setY_x (v : Byte) : (s.setY v).x = s.x := rfl
@[simp] theorem setY_y (v : Byte) : (s.setY v).y = v := rfl
@[simp] theorem setY_sp (v : Byte) : (s.setY v).sp = s.sp := rfl
@[simp] theorem setY_pc (v : Byte) : (s.setY v).pc = s.pc := rfl
@[simp] theorem setY_p (v : Byte) : (s.setY v).p = s.p := rfl
@[simp] theorem setY_clk (v : Byte) : (s.setY v).clk = s.clk := rfl
@[simp] theorem setY_nmiPending (v : Byte) : (s.setY v).nmiPending = s.nmiPending := rfl
@[simp] theorem setY_fault (v : Byte) : (s.setY v).fault = s.fault := rfl
@[simp] theorem setY_irqLine (v : Byte) : (s.setY v).irqLine = s.irqLine := rfl
@[simp] theorem setY_mem (v : Byte) : (s.setY v).mem = s.mem := rfl
@[simp] theorem setY_params (v : Byte) : (s.setY v).params = s.params := rfl
@[simp] theorem setY_deviceCount (v : Byte) : (s.setY v).deviceCount = s.deviceCount := rfl
@[simp] theorem setY_accesses (v : Byte) : (s.setY v).accesses = s.accesses := rfl
@[simp] theorem setY_flag (v : Byte) (f : Flag) : (s.setY v).flag f = s.flag f := rfl
@[simp] theorem setY_peek (v : Byte) (w : Word) : (s.setY v).peek w = s.peek w := rfl
@[simp] theorem setY_busByte (v : Byte) (w : Word) : (s.setY v).busByte w = s.busByte w := rfl

@[simp] theorem setSp_a (v : Byte) : (s.setSp v).a = s.a := rfl
@[simp] theorem setSp_x (v : Byte) : (s.setSp v).x = s.x := rfl
@[simp] theorem setSp_y (v : Byte) : (s.setSp v).y = s.y := rfl
@[simp] theorem setSp_sp (v : Byte) : (s.setSp v).sp = v := rfl
@[simp] theorem setSp_pc (v : Byte) : (s.setSp v).pc = s.pc := rfl
@[simp] theorem setSp_p (v : Byte) : (s.setSp v).p = s.p := rfl
@[simp] theorem setSp_clk (v : Byte) : (s.setSp v).clk = s.clk := rfl
@[simp] theorem setSp_nmiPending (v : Byte) : (s.setSp v).nmiPending = s.nmiPending := rfl
@[simp] theorem setSp_fault (v : Byte) : (s.setSp v).fault = s.fault := rfl
@[simp] theorem setSp_irqLine (v : Byte) : (s.setSp v).irqLine = s.irqLine := rfl
@[simp] theorem setSp_mem (v : Byte) : (s.setSp v).mem = s.mem := rfl
@[simp] theorem setSp_params (v : Byte) : (s.setSp v).params = s.params := rfl
@[simp] theorem setSp_deviceCount (v : Byte) : (s.setSp v).deviceCount = s.deviceCount := rfl
@[simp] theorem setSp_accesses (v : Byte) : (s.setSp v).accesses = s.accesses := rfl
@[simp] theorem setSp_flag (v : Byte) (f : Flag) : (s.setSp v).flag f = s.flag f := rfl
@[simp] theorem setSp_peek (v : Byte) (w : Word) : (s.setSp v).peek w = s.peek w := rfl
@[simp] theorem setSp_busByte (v : Byte) (w : Word) : (s.setSp v).busByte w = s.busByte w := rfl

@[simp] theorem setPc_a (v : Word) : (s.setPc v).a = s.a := rfl
@[simp] theorem setPc_x (v : Word) : (s.setPc v).x = s.x := rfl
@[simp] theorem setPc_y (v : Word) : (s.setPc v).y = s.y := rfl
@[simp] theorem setPc_sp (v : Word) : (s.setPc v).sp = s.sp := rfl
@[simp] theorem setPc_pc (v : Word) : (s.setPc v).pc = v := rfl
@[simp] theorem setPc_p (v : Word) : (s.setPc v).p = s.p := rfl
@[simp] theorem setPc_clk (v : Word) : (s.setPc v).clk = s.clk := rfl
@[simp] theorem setPc_nmiPending (v : Word) : (s.setPc v).nmiPending = s.nmiPending := rfl
@[simp] theorem setPc_fault (v : Word) : (s.setPc v).fault = s.fault := rfl
@[simp] theorem setPc_irqLine (v : Word) : (s.setPc v).irqLine = s.irqLine := rfl
@[simp] theorem setPc_mem (v : Word) : (s.setPc v).mem = s.mem := rfl
@[simp] theorem setPc_params (v : Word) : (s.setPc v).params = s.params := rfl
@[simp] theorem setPc_deviceCount (v : Word) : (s.setPc v).deviceCount = s.deviceCount := rfl
@[simp] theorem setPc_accesses (v : Word) : (s.setPc v).accesses = s.accesses := rfl
@[simp] theorem setPc_flag (v : Word) (f : Flag) : (s.setPc v).flag f = s.flag f := rfl
@[simp] theorem setPc_peek (v : Word) (w : Word) : (s.setPc v).peek w = s.peek w := rfl
@[simp] theorem setPc_busByte (v : Word) (w : Word) : (s.setPc v).busByte w = s.busByte w := rfl

@[simp] theorem setP_a (v : Byte) : (s.setP v).a = s.a := rfl
@[simp] theorem setP_x (v : Byte) : (s.setP v).x = s.x := rfl
@[simp] theorem setP_y (v : Byte) : (s.setP v).y = s.y := rfl
@[simp] theorem setP_sp (v : Byte) : (s.setP v).sp = s.sp := rfl
@[simp] theorem setP_pc (v : Byte) : (s.setP v).pc = s.pc := rfl
@[simp] theorem setP_p (v : Byte) : (s.setP v).p = v := rfl
@[simp] theorem setP_clk (v : Byte) : (s.setP v).clk = s.clk := rfl
@[simp] theorem setP_nmiPending (v : Byte) : (s.setP v).nmiPending = s.nmiPending := rfl
@[simp] theorem setP_fault (v : Byte) : (s.setP v).fault = s.fault := rfl
@[simp] theorem setP_irqLine (v : Byte) : (s.setP v).irqLine = s.irqLine := rfl
@[simp] theorem setP_mem (v : Byte) : (s.setP v).mem = s.mem := rfl
@[simp] theorem setP_params (v : Byte) : (s.setP v).params = s.params := rfl
@[simp] theorem setP_deviceCount (v : Byte) : (s.setP v).deviceCount = s.deviceCount := rfl
@[simp] theorem setP_accesses (v : Byte) : (s.setP v).accesses = s.accesses := rfl
@[simp] theorem setP_peek (v : Byte) (w : Word) : (s.setP v).peek w = s.peek w := rfl
@[simp] theorem setP_busByte (v : Byte) (w : Word) : (s.setP v).busByte w = s.busByte w := rfl

@[simp] theorem addClk_a (n : Nat) : (s.addClk n).a = s.a := rfl
@[simp] theorem addClk_x (n : Nat) : (s.addClk n).x = s.x := rfl
@[simp] theorem addClk_y (n : Nat) : (s.addClk n).y = s.y := rfl
@[simp] theorem addClk_sp (n : Nat) : (s.addClk n).sp = s.sp := rfl
@[simp] theorem addClk_pc (n : Nat) : (s.addClk n).pc = s.pc := rfl
@[simp] theorem addClk_p (n : Nat) : (s.addClk n).p = s.p := rfl
@[simp] theorem addClk_clk (n : Nat) : (s.addClk n).clk = s.clk + n := rfl
@[simp] theorem addClk_nmiPending (n : Nat) : (s.addClk n).nmiPending = s.nmiPending := rfl
@[simp] theorem addClk_fault (n : Nat) : (s.addClk n).fault = s.fault := rfl
@[simp] theorem addClk_irqLine (n : Nat) : (s.addClk n).irqLine = s.irqLine := rfl
@[simp] theorem addClk_mem (n : Nat) : (s.addClk n).mem = s.mem := rfl
@[simp] theorem addClk_params (n : Nat) : (s.addClk n).params = s.params := rfl
@[simp] theorem addClk_deviceCount (n : Nat) : (s.addClk n).deviceCount = s.deviceCount := rfl
@[simp] theorem addClk_accesses (n : Nat) : (s.addClk n).accesses = s.accesses := rfl
@[simp] theorem addClk_flag (n : Nat) (f : Flag) : (s.addClk n).flag f = s.flag f := rfl
@[simp] theorem addClk_peek (n : Nat) (w : Word) : (s.addClk n).peek w = s.peek w := rfl
@[simp] theorem addClk_busByte (n : Nat) (w : Word) : (s.addClk n).busByte w = s.busByte w := rfl

@[simp] theorem setFlag_a (f : Flag) (b : Bool) : (s.setFlag f b).a = s.a := rfl
@[simp] theorem setFlag_x (f : Flag) (b : Bool) : (s.setFlag f b).x = s.x := rfl
@[simp] theorem setFlag_y (f : Flag) (b : Bool) : (s.setFlag f b).y = s.y := rfl
@[simp] theorem setFlag_sp (f : Flag) (b : Bool) : (s.setFlag f b).sp = s.sp := rfl
@[simp] theorem setFlag_pc (f : Flag) (b : Bool) : (s.setFlag f b).pc = s.pc := rfl
@[simp] theorem setFlag_p (f : Flag) (b : Bool) : (s.setFlag f b).p = putFlag s.p f b := rfl
@[simp] theorem setFlag_clk (f : Flag) (b : Bool) : (s.setFlag f b).clk = s.clk := rfl
@[simp] theorem setFlag_nmiPending (f : Flag) (b : Bool) : (s.setFlag f b).nmiPending = s.nmiPending := rfl
@[simp] theorem setFlag_fault (f : Flag) (b : Bool) : (s.setFlag f b).fault = s.fault := rfl
@[simp] theorem setFlag_irqLine (f : Flag) (b : Bool) : (s.setFlag f b).irqLine = s.irqLine := rfl
@[simp] theorem setFlag_mem (f : Flag) (b : Bool) : (s.setFlag f b).mem = s.mem := rfl
@[simp] theorem setFlag_params (f : Flag) (b : Bool) : (s.setFlag f b).params = s.params := rfl
@[simp] theorem setFlag_deviceCount (f : Flag) (b : Bool) : (s.setFlag f b).deviceCount = s.deviceCount := rfl
@[simp] theorem setFlag_accesses (f : Flag) (b : Bool) : (s.setFlag f b).accesses = s.accesses := rfl
@[simp] theorem setFlag_peek (f : Flag) (b : Bool) (w : Word) : (s.setFlag f b).peek w = s.peek w := rfl
@[simp] theorem setFlag_busByte (f : Flag) (b : Bool) (w : Word) : (s.setFlag f b).busByte w = s.busByte w := rfl

@[simp] theorem setZN_a (v : Byte) : (s.setZN v).a = s.a := rfl
@[simp] theorem setZN_x (v : Byte) : (s.setZN v).x = s.x := rfl
@[simp] theorem setZN_y (v : Byte) : (s.setZN v).y = s.y := rfl
@[simp] theorem setZN_sp (v : Byte) : (s.setZN v).sp = s.sp := rfl
@[simp] theorem setZN_pc (v : Byte) : (s.setZN v).pc = s.pc := rfl
@[simp] theorem setZN_p (v : Byte) : (s.setZN v).p = putZN s.p v := rfl
@[simp] theorem setZN_clk (v : Byte) : (s.setZN v).clk = s.clk := rfl
@[simp] theorem setZN_nmiPending (v : Byte) : (s.setZN v).nmiPending = s.nmiPending := rfl
@[simp] theorem setZN_fault (v : Byte) : (s.setZN v).fault = s.fault := rfl
@[simp] theorem setZN_irqLine (v : Byte) : (s.setZN v).irqLine = s.irqLine := rfl
@[simp] theorem setZN_mem (v : Byte) : (s.setZN v).mem = s.mem := rfl
@[simp] theorem setZN_params (v : Byte) : (s.setZN v).params = s.params := rfl
@[simp] theorem setZN_deviceCount (v : Byte) : (s.setZN v).deviceCount = s.deviceCount := rfl
@[simp] theorem setZN_accesses (v : Byte) : (s.setZN v).accesses = s.accesses := rfl
@[simp] theorem setZN_peek (v : Byte) (w : Word) : (s.setZN v).peek w = s.peek w := rfl
@[simp] theorem setZN_busByte (v : Byte) (w : Word) : (s.setZN v).busByte w = s.busByte w := rfl

@[simp] theorem record_a (c : BusAccess) (b : Bool) : (s.record c b).a = s.a := rfl
@[simp] theorem record_x (c : BusAccess) (b : Bool) : (s.record c b).x = s.x := rfl
@[simp] theorem record_y (c : BusAccess) (b : Bool) : (s.record c b).y = s.y := rfl
@[simp] theorem record_sp (c : BusAccess) (b : Bool) : (s.record c b).sp = s.sp := rfl
@[simp] theorem record_pc (c : BusAccess) (b : Bool) : (s.record c b).pc = s.pc := rfl
@[simp] theorem record_p (c : BusAccess) (b : Bool) : (s.record c b).p = s.p := rfl
@[simp] theorem record_clk (c : BusAccess) (b : Bool) : (s.record c b).clk = s.clk := rfl
@[simp] theorem record_nmiPending (c : BusAccess) (b : Bool) : (s.record c b).nmiPending = s.nmiPending := rfl
@[simp] theorem record_fault (c : BusAccess) (b : Bool) : (s.record c b).fault = s.fault := rfl
@[simp] theorem record_irqLine (c : BusAccess) (b : Bool) : (s.record c b).irqLine = s.irqLine := rfl
@[simp] theorem record_mem (c : BusAccess) (b : Bool) : (s.record c b).mem = s.mem := rfl
@[simp] theorem record_params (c : BusAccess) (b : Bool) : (s.record c b).params = s.params := rfl
@[simp] theorem record_deviceCount (c : BusAccess) (b : Bool) : (s.record c b).deviceCount = s.deviceCount + (if b then 1 else 0) := rfl
@[simp] theorem record_accesses (c : BusAccess) (b : Bool) : (s.record c b).accesses = s.accesses ++ [c] := rfl
@[simp] theorem record_flag (c : BusAccess) (b : Bool) (f : Flag) : (s.record c b).flag f = s.flag f := rfl
@[simp] theorem record_peek (c : BusAccess) (b : Bool) (w : Word) : (s.record c b).peek w = s.peek w := rfl

@[simp] theorem raise_a (r : Fault) : (raise r s).a = s.a := rfl
@[simp] theorem raise_x (r : Fault) : (raise r s).x = s.x := rfl
@[simp] theorem raise_y (r : Fault) : (raise r s).y = s.y := rfl
@[simp] theorem raise_sp (r : Fault) : (raise r s).sp = s.sp := rfl
@[simp] theorem raise_pc (r : Fault) : (raise r s).pc = s.pc := rfl
@[simp] theorem raise_p (r : Fault) : (raise r s).p = s.p := rfl
@[simp] theorem raise_clk (r : Fault) : (raise r s).clk = s.clk := rfl
@[simp] theorem raise_nmiPending (r : Fault) : (raise r s).nmiPending = s.nmiPending := rfl
@[simp] theorem raise_fault (r : Fault) : (raise r s).fault = some r := rfl
@[simp] theorem raise_irqLine (r : Fault) : (raise r s).irqLine = s.irqLine := rfl
@[simp] theorem raise_mem (r : Fault) : (raise r s).mem = s.mem := rfl
@[simp] theorem raise_params (r : Fault) : (raise r s).params = s.params := rfl
@[simp] theorem raise_deviceCount (r : Fault) : (raise r s).deviceCount = s.deviceCount := rfl
@[simp] theorem raise_accesses (r : Fault) : (raise r s).accesses = s.accesses := rfl
@[simp] theorem raise_flag (r : Fault) (f : Flag) : (raise r s).flag f = s.flag f := rfl
@[simp] theorem raise_peek (r : Fault) (w : Word) : (raise r s).peek w = s.peek w := rfl
@[simp] theorem raise_busByte (r : Fault) (w : Word) : (raise r s).busByte w = s.busByte w := rfl

@[simp] theorem beginStep_a : s.beginStep.a = s.a := rfl
@[simp] theorem beginStep_x : s.beginStep.x = s.x := rfl
@[simp] theorem beginStep_y : s.beginStep.y = s.y := rfl
@[simp] theorem beginStep_sp : s.beginStep.sp = s.sp := rfl
@[simp] theorem beginStep_pc : s.beginStep.pc = s.pc := rfl
@[simp] theorem beginStep_p : s.beginStep.p = s.p := rfl
@[simp] theorem beginStep_clk : s.beginStep.clk = s.clk := rfl
@[simp] theorem beginStep_nmiPending : s.beginStep.nmiPending = s.nmiPending := rfl
@[simp] theorem beginStep_fault : s.beginStep.fault = s.fault := rfl
@[simp] theorem beginStep_irqLine : s.beginStep.irqLine = s.irqLine := rfl
@[simp] theorem beginStep_mem : s.beginStep.mem = s.mem := rfl
@[simp] theorem beginStep_params : s.beginStep.params = s.params := rfl
@[simp] theorem beginStep_deviceCount : s.beginStep.deviceCount = s.deviceCount := rfl
@[simp] theorem beginStep_accesses : s.beginStep.accesses = [] := rfl
@[simp] theorem beginStep_flag (f : Flag) : s.beginStep.flag f = s.flag f := rfl
@[simp] theorem beginStep_peek (w : Word) : s.beginStep.peek w = s.peek w := rfl
@[simp] theorem beginStep_busByte (w : Word) : s.beginStep.busByte w = s.busByte w := rfl

@[simp] theorem readyToFetch_a : s.readyToFetch.a = s.a := rfl
@[simp] theorem readyToFetch_x : s.readyToFetch.x = s.x := rfl
@[simp] theorem readyToFetch_y : s.readyToFetch.y = s.y := rfl
@[simp] theorem readyToFetch_sp : s.readyToFetch.sp = s.sp := rfl
@[simp] theorem readyToFetch_pc : s.readyToFetch.pc = s.pc := rfl
@[simp] theorem readyToFetch_p : s.readyToFetch.p = s.p := rfl
@[simp] theorem readyToFetch_clk : s.readyToFetch.clk = s.clk := rfl
@[simp] theorem readyToFetch_nmiPending : s.readyToFetch.nmiPending = false := rfl
@[simp] theorem readyToFetch_fault : s.readyToFetch.fault = none := rfl
@[simp] theorem readyToFetch_irqLine : s.readyToFetch.irqLine = false := rfl
@[simp] theorem readyToFetch_mem : s.readyToFetch.mem = s.mem := rfl
@[simp] theorem readyToFetch_params : s.readyToFetch.params = s.params := rfl
@[simp] theorem readyToFetch_deviceCount : s.readyToFetch.deviceCount = s.deviceCount := rfl
@[simp] theorem readyToFetch_accesses : s.readyToFetch.accesses = s.accesses := rfl
@[simp] theorem readyToFetch_flag (f : Flag) : s.readyToFetch.flag f = s.flag f := rfl
@[simp] theorem readyToFetch_peek (w : Word) : s.readyToFetch.peek w = s.peek w := rfl
@[simp] theorem readyToFetch_busByte (w : Word) : s.readyToFetch.busByte w = s.busByte w := rfl

@[simp] theorem assertNmi_a : (assertNmi s).a = s.a := rfl
@[simp] theorem assertNmi_x : (assertNmi s).x = s.x := rfl
@[simp] theorem assertNmi_y : (assertNmi s).y = s.y := rfl
@[simp] theorem assertNmi_sp : (assertNmi s).sp = s.sp := rfl
@[simp] theorem assertNmi_pc : (assertNmi s).pc = s.pc := rfl
@[simp] theorem assertNmi_p : (assertNmi s).p = s.p := rfl
@[simp] theorem assertNmi_clk : (assertNmi s).clk = s.clk := rfl
@[simp] theorem assertNmi_nmiPending : (assertNmi s).nmiPending = true := rfl
@[simp] theorem assertNmi_fault : (assertNmi s).fault = s.fault := rfl
@[simp] theorem assertNmi_irqLine : (assertNmi s).irqLine = s.irqLine := rfl
@[simp] theorem assertNmi_mem : (assertNmi s).mem = s.mem := rfl
@[simp] theorem assertNmi_params : (assertNmi s).params = s.params := rfl
@[simp] theorem assertNmi_deviceCount : (assertNmi s).deviceCount = s.deviceCount := rfl
@[simp] theorem assertNmi_accesses : (assertNmi s).accesses = s.accesses := rfl
@[simp] theorem assertNmi_flag (f : Flag) : (assertNmi s).flag f = s.flag f := rfl
@[simp] theorem assertNmi_peek (w : Word) : (assertNmi s).peek w = s.peek w := rfl
@[simp] theorem assertNmi_busByte (w : Word) : (assertNmi s).busByte w = s.busByte w := rfl

@[simp] theorem driveIrq_a (b : Bool) : (driveIrq b s).a = s.a := rfl
@[simp] theorem driveIrq_x (b : Bool) : (driveIrq b s).x = s.x := rfl
@[simp] theorem driveIrq_y (b : Bool) : (driveIrq b s).y = s.y := rfl
@[simp] theorem driveIrq_sp (b : Bool) : (driveIrq b s).sp = s.sp := rfl
@[simp] theorem driveIrq_pc (b : Bool) : (driveIrq b s).pc = s.pc := rfl
@[simp] theorem driveIrq_p (b : Bool) : (driveIrq b s).p = s.p := rfl
@[simp] theorem driveIrq_clk (b : Bool) : (driveIrq b s).clk = s.clk := rfl
@[simp] theorem driveIrq_nmiPending (b : Bool) : (driveIrq b s).nmiPending = s.nmiPending := rfl
@[simp] theorem driveIrq_fault (b : Bool) : (driveIrq b s).fault = s.fault := rfl
@[simp] theorem driveIrq_irqLine (b : Bool) : (driveIrq b s).irqLine = b := rfl
@[simp] theorem driveIrq_mem (b : Bool) : (driveIrq b s).mem = s.mem := rfl
@[simp] theorem driveIrq_params (b : Bool) : (driveIrq b s).params = s.params := rfl
@[simp] theorem driveIrq_deviceCount (b : Bool) : (driveIrq b s).deviceCount = s.deviceCount := rfl
@[simp] theorem driveIrq_accesses (b : Bool) : (driveIrq b s).accesses = s.accesses := rfl
@[simp] theorem driveIrq_flag (b : Bool) (f : Flag) : (driveIrq b s).flag f = s.flag f := rfl
@[simp] theorem driveIrq_peek (b : Bool) (w : Word) : (driveIrq b s).peek w = s.peek w := rfl
@[simp] theorem driveIrq_busByte (b : Bool) (w : Word) : (driveIrq b s).busByte w = s.busByte w := rfl

end Sys2Proof.Machine
end

