-- ==== Sys2Proof/Laws/Bus.lean ====
section
/-! SUPPORT. What one bus transaction can do, for each field, and the pages that are stored bytes on both buses. -/

namespace Sys2Proof.Machine

/-! ## Address decoding -/

/-- A stored byte is one of the 65536. -/
theorem region_cell_lt {p : Params} {a : Word} {k : Nat} (h : region p a = .cell k) : k < 65536 := by
  have ha := a.isLt
  have hm := (a &&& 0x07FF).isLt
  unfold region at h
  split at h
  · injection h with h; omega
  · split at h
    · injection h with h; omega
    · split at h
      · cases h
      · split at h
        · split at h <;> cases h
        · split at h
          · cases h
          · split at h
            · injection h with h; omega
            · cases h
            · cases h

/-- Below 0x0800 both buses store each byte at its own address (R52, R62). -/
theorem region_low {p : Params} {a : Word} (h : a.toNat < 0x0800) : region p a = .cell a.toNat := by
  have hmask : (a &&& 0x07FF).toNat = a.toNat := by
    rw [BitVec.toNat_and, show (0x07FF : Word).toNat = 2 ^ 11 - 1 from rfl, Nat.and_two_pow_sub_one_eq_mod]
    omega
  unfold region
  split
  · rfl
  · rw [if_pos (by omega), hmask]

theorem zext_lt (z : Byte) : (zext z).toNat < 0x0800 := by
  have := z.isLt
  rw [zext_toNat]
  omega

theorem stackAddr_toNat (sp : Byte) : (stackAddr sp).toNat = 0x0100 + sp.toNat := by
  rw [stackAddr, join_toNat]
  rfl

theorem stackAddr_lt (sp : Byte) : (stackAddr sp).toNat < 0x0800 := by
  have := sp.isLt
  rw [stackAddr_toNat]
  omega

/-- The zero page is stored on both buses (R59). -/
@[simp] theorem region_zext (p : Params) (z : Byte) : region p (zext z) = .cell (zext z).toNat := region_low (zext_lt z)

/-- The stack page is stored on both buses (R58). -/
@[simp] theorem region_stackAddr (p : Params) (sp : Byte) : region p (stackAddr sp) = .cell (stackAddr sp).toNat :=
  region_low (stackAddr_lt sp)

theorem hits_low {p : Params} {a : Word} (h : a.toNat < 0x0800) : hits p a a = true := by
  simp [hits, region_low h]

theorem hits_iff {p : Params} {a b : Word} :
    hits p a b = true ↔ ∃ k, region p a = .cell k ∧ region p b = .cell k := by
  unfold hits
  split
  · rename_i j k hj hk
    simp [hj, hk]
    exact eq_comm
  · rename_i h
    simp only [Bool.false_eq_true, false_iff, not_exists, not_and]
    exact fun k hj hk => h k k hj hk

@[simp] theorem hits_stackAddr (p : Params) (x y : Byte) : hits p (stackAddr x) (stackAddr y) = decide (x = y) := by
  simp only [hits, region_stackAddr, stackAddr_toNat]
  by_cases h : x = y
  · simp [h]
  · simp only [h, decide_false, beq_eq_false_iff_ne]
    intro hn
    exact h (BitVec.eq_of_toNat_eq (by omega))

/-- A byte is at one stack slot at most. -/
theorem hits_stackAddr_excl {p : Params} {x y : Byte} {b : Word} (h : x ≠ y) (hx : hits p (stackAddr x) b = true) :
    hits p (stackAddr y) b = false := by
  rw [Bool.eq_false_iff, Ne, hits_iff]
  rintro ⟨k, hk, hb⟩
  obtain ⟨j, hj, hb'⟩ := hits_iff.mp hx
  rw [hb] at hb'
  injection hb' with e
  subst e
  rw [region_stackAddr] at hk hj
  injection hk with hk
  injection hj with hj
  rw [stackAddr_toNat] at hk hj
  exact h (BitVec.eq_of_toNat_eq (by omega))

/-- From 0x2000 on, a stored byte is stored at its own address. -/
theorem region_high_cell {p : Params} {b : Word} {k : Nat} (hb : 0x2000 ≤ b.toNat) (h : region p b = .cell k) :
    k = b.toNat := by
  unfold region at h
  split at h
  · injection h with h; exact h.symm
  · rw [if_neg (by omega)] at h
    split at h
    · cases h
    · split at h
      · split at h <;> cases h
      · split at h
        · cases h
        · split at h
          · injection h with h; exact h.symm
          · cases h
          · cases h

/-- A push never changes a byte at or above 0x2000, the vectors among them. -/
theorem hits_stackAddr_high {p : Params} {sp : Byte} {b : Word} (hb : 0x2000 ≤ b.toNat) :
    hits p (stackAddr sp) b = false := by
  rw [Bool.eq_false_iff, Ne, hits_iff]
  rintro ⟨k, ha, hk⟩
  have := region_high_cell hb hk
  rw [region_stackAddr] at ha
  injection ha with ha
  have := stackAddr_lt sp
  omega

/-! ## Reading -/

theorem memRead_fst (a : Word) (s : State) : (memRead a s).1 = s.busByte a := rfl

theorem memRead_snd (a : Word) (s : State) :
    (memRead a s).2 = s.record (.read a (s.busByte a)) (region s.params a).isDevice := rfl

/-- Where a byte is readable without side effect, the bus answers it. -/
theorem busByte_of_peek {s : State} {a : Word} {v : Byte} (h : s.peek a = some v) : s.busByte a = v := by
  unfold State.peek at h
  unfold State.busByte
  split at h <;> simp_all

theorem isDevice_of_peek {s : State} {a : Word} {v : Byte} (h : s.peek a = some v) :
    (region s.params a).isDevice = false := by
  unfold State.peek at h
  split at h <;> simp_all [Region.isDevice]

/-- A read of a readable byte answers it and changes nothing but the record. -/
theorem memRead_of_peek {s : State} {a : Word} {v : Byte} (h : s.peek a = some v) :
    memRead a s = (v, { s with accesses := s.accesses ++ [.read a v] }) := by
  simp [memRead, busByte_of_peek h, isDevice_of_peek h, State.record]

/-- The stored byte at an address that is a cell. -/
theorem peek_of_cell {s : State} {a : Word} {k : Nat} (h : region s.params a = .cell k) :
    s.peek a = some (Memory.read s.mem k) := by
  simp [State.peek, h]

theorem peek_zext (s : State) (z : Byte) : s.peek (zext z) = some (Memory.read s.mem (zext z).toNat) :=
  peek_of_cell (region_zext s.params z)

theorem peek_stackAddr (s : State) (sp : Byte) :
    s.peek (stackAddr sp) = some (Memory.read s.mem (stackAddr sp).toNat) :=
  peek_of_cell (region_stackAddr s.params sp)

/-- Everything a read can change. -/
theorem memRead_eq (a : Word) (s : State) :
    ∃ n, (memRead a s).2 = { s with accesses := s.accesses ++ [.read a (memRead a s).1], deviceCount := n } :=
  ⟨_, rfl⟩

@[simp] theorem memRead_a (a : Word) (s : State) : (memRead a s).2.a = s.a := rfl
@[simp] theorem memRead_x (a : Word) (s : State) : (memRead a s).2.x = s.x := rfl
@[simp] theorem memRead_y (a : Word) (s : State) : (memRead a s).2.y = s.y := rfl
@[simp] theorem memRead_sp (a : Word) (s : State) : (memRead a s).2.sp = s.sp := rfl
@[simp] theorem memRead_pc (a : Word) (s : State) : (memRead a s).2.pc = s.pc := rfl
@[simp] theorem memRead_p (a : Word) (s : State) : (memRead a s).2.p = s.p := rfl
@[simp] theorem memRead_clk (a : Word) (s : State) : (memRead a s).2.clk = s.clk := rfl
@[simp] theorem memRead_nmiPending (a : Word) (s : State) : (memRead a s).2.nmiPending = s.nmiPending := rfl
@[simp] theorem memRead_fault (a : Word) (s : State) : (memRead a s).2.fault = s.fault := rfl
@[simp] theorem memRead_irqLine (a : Word) (s : State) : (memRead a s).2.irqLine = s.irqLine := rfl
@[simp] theorem memRead_mem (a : Word) (s : State) : (memRead a s).2.mem = s.mem := rfl
@[simp] theorem memRead_params (a : Word) (s : State) : (memRead a s).2.params = s.params := rfl
@[simp] theorem memRead_flag (a : Word) (s : State) (f : Flag) : (memRead a s).2.flag f = s.flag f := rfl
@[simp] theorem memRead_peek (a : Word) (s : State) (b : Word) : (memRead a s).2.peek b = s.peek b := rfl
@[simp] theorem memRead_accesses (a : Word) (s : State) :
    (memRead a s).2.accesses = s.accesses ++ [.read a (memRead a s).1] := rfl

/-! ## Writing -/

@[simp] theorem memWrite_a (a : Word) (v : Byte) (s : State) : (memWrite a v s).a = s.a := rfl
@[simp] theorem memWrite_x (a : Word) (v : Byte) (s : State) : (memWrite a v s).x = s.x := rfl
@[simp] theorem memWrite_y (a : Word) (v : Byte) (s : State) : (memWrite a v s).y = s.y := rfl
@[simp] theorem memWrite_sp (a : Word) (v : Byte) (s : State) : (memWrite a v s).sp = s.sp := rfl
@[simp] theorem memWrite_pc (a : Word) (v : Byte) (s : State) : (memWrite a v s).pc = s.pc := rfl
@[simp] theorem memWrite_p (a : Word) (v : Byte) (s : State) : (memWrite a v s).p = s.p := rfl
@[simp] theorem memWrite_clk (a : Word) (v : Byte) (s : State) : (memWrite a v s).clk = s.clk := rfl
@[simp] theorem memWrite_nmiPending (a : Word) (v : Byte) (s : State) : (memWrite a v s).nmiPending = s.nmiPending := rfl
@[simp] theorem memWrite_fault (a : Word) (v : Byte) (s : State) : (memWrite a v s).fault = s.fault := rfl
@[simp] theorem memWrite_irqLine (a : Word) (v : Byte) (s : State) : (memWrite a v s).irqLine = s.irqLine := rfl
@[simp] theorem memWrite_params (a : Word) (v : Byte) (s : State) : (memWrite a v s).params = s.params := rfl
@[simp] theorem memWrite_flag (a : Word) (v : Byte) (s : State) (f : Flag) : (memWrite a v s).flag f = s.flag f := rfl
@[simp] theorem memWrite_accesses (a : Word) (v : Byte) (s : State) :
    (memWrite a v s).accesses = s.accesses ++ [.write a v] := rfl

theorem memWrite_mem (a : Word) (v : Byte) (s : State) : (memWrite a v s).mem = s.stored a v := rfl

/-- A byte that absorbs writes is never where a stored byte is. -/
theorem region_rom_ne_cell {p : Params} {a b : Word} {k : Nat} (hb : region p b = .rom k) : region p a ≠ .cell k := by
  have hm : (a &&& 0x07FF).toNat < 0x0800 := by
    rw [BitVec.toNat_and, show (0x07FF : Word).toNat = 2 ^ 11 - 1 from rfl, Nat.and_two_pow_sub_one_eq_mod]
    omega
  intro ha
  unfold region at ha hb
  split at hb
  · cases hb
  · rename_i hbus
    simp only [hbus] at ha
    split at hb
    · cases hb
    · split at hb
      · cases hb
      · split at hb
        · split at hb <;> cases hb
        · split at hb
          · cases hb
          · split at hb
            · cases hb
            · rename_i hcart
              simp only [hcart] at ha
              injection hb with hb
              split at ha
              · injection ha with ha; omega
              · split at ha
                · cases ha
                · split at ha
                  · split at ha <;> cases ha
                  · split at ha <;> cases ha
            · cases hb

/-- Everything a write does to memory: the byte it hits, if any, reads as what was written, and no other byte changes. -/
theorem memWrite_peek (a : Word) (v : Byte) (s : State) (b : Word) :
    (memWrite a v s).peek b = if hits s.params a b then some v else s.peek b := by
  by_cases hh : hits s.params a b = true
  · obtain ⟨k, ha, hb⟩ := hits_iff.mp hh
    simp [hh, State.peek, memWrite_mem, State.stored, ha, hb, Memory.read_write]
  · rw [if_neg hh]
    cases ha : region s.params a with
    | cell j =>
      have hne : region s.params b ≠ .cell j := fun hb => hh (hits_iff.mpr ⟨j, ha, hb⟩)
      cases hb : region s.params b with
      | cell k =>
        have : k ≠ j := fun e => hne (e ▸ hb)
        simp [State.peek, memWrite_mem, State.stored, ha, hb, Memory.read_write, this]
      | rom k =>
        have : k ≠ j := fun e => region_rom_ne_cell hb (e ▸ ha)
        simp [State.peek, memWrite_mem, State.stored, ha, hb, Memory.read_write, this]
      | stub w => simp [State.peek, hb]
      | device port => simp [State.peek, hb]
    | rom j => simp [State.peek, memWrite_mem, State.stored, ha]
    | stub w => simp [State.peek, memWrite_mem, State.stored, ha]
    | device port => simp [State.peek, memWrite_mem, State.stored, ha]

theorem memWrite_storesOnly (a : Word) (v : Byte) (s : State) : StoresOnly a v s (memWrite a v s) := memWrite_peek a v s

/-- What the bus answers after a write where the bus keeps a byte. -/
theorem memWrite_busByte {a : Word} {k : Nat} (v : Byte) {s : State} (ha : region s.params a = .cell k) (b : Word) :
    (memWrite a v s).busByte b = if hits s.params a b then v else s.busByte b := by
  have hp := memWrite_peek a v s b
  cases hb : region s.params b with
  | device port =>
    have hh : hits s.params a b = false := by simp [hits, ha, hb]
    simp [hh, State.busByte, memWrite, State.record, ha, hb, Region.isDevice]
  | _ =>
    obtain ⟨w, hw⟩ : ∃ w, s.peek b = some w := by simp [State.peek, hb]
    rw [hw] at hp
    rw [busByte_of_peek hw]
    split at hp <;> rename_i h <;> simp only [h] <;> exact busByte_of_peek hp

/-- A write keeps the canonical form of memory. -/
theorem memWrite_wf (a : Word) (v : Byte) (s : State) (h : Memory.wf s.mem = true) :
    Memory.wf (memWrite a v s).mem = true := by
  rw [memWrite_mem, State.stored]
  split
  · exact Memory.write_wf v h (region_cell_lt ‹_›)
  all_goals exact h

end Sys2Proof.Machine
end

