-- ==== Sys2Proof/Laws/PerInstr.lean ====
section
/-! SUPPORT. Facts about each instruction as syntax, one lemma for each constructor. -/

namespace Sys2Proof.Laws

/-- The dispatch table has a row at the instruction's opcode, the row names the instruction's operation and mode, and its
`make` gives the instruction back from its operand bytes (30_encoding.md R72, R73, R74). -/
def TableRow.Statement (i : Instr) : Prop :=
  (∃ c e, descriptor i.opcode = some ⟨i.op, i.operand.mode, c, e⟩) ∧
    (lookup i.opcode).map (fun r => r.make (i.operand.bytes.getD 0 0) (i.operand.bytes.getD 1 0)) = some i

theorem TableRow.adcIzx (z : Byte) : TableRow.Statement (.adcIzx z) := 
  ⟨⟨_, _, (rfl : descriptor 0x61 = some ⟨.adc, .izx, 6, false⟩)⟩,
    (rfl : (lookup 0x61).map (fun r => r.make z 0) = some (.adcIzx z))⟩
theorem TableRow.adcZp (z : Byte) : TableRow.Statement (.adcZp z) := 
  ⟨⟨_, _, (rfl : descriptor 0x65 = some ⟨.adc, .zp, 3, false⟩)⟩,
    (rfl : (lookup 0x65).map (fun r => r.make z 0) = some (.adcZp z))⟩
theorem TableRow.adcImm (v : Byte) : TableRow.Statement (.adcImm v) := 
  ⟨⟨_, _, (rfl : descriptor 0x69 = some ⟨.adc, .imm, 2, false⟩)⟩,
    (rfl : (lookup 0x69).map (fun r => r.make v 0) = some (.adcImm v))⟩
theorem TableRow.adcAbs (a : Word) : TableRow.Statement (.adcAbs a) := 
  ⟨⟨_, _, (rfl : descriptor 0x6D = some ⟨.adc, .abs, 4, false⟩)⟩,
    (rfl : (lookup 0x6D).map (fun r => r.make (lo a) (hi a)) = some (.adcAbs (join (hi a) (lo a)))).trans
      (congrArg (fun w => some (Instr.adcAbs w)) (join_hi_lo a))⟩
theorem TableRow.adcIzy (z : Byte) : TableRow.Statement (.adcIzy z) := 
  ⟨⟨_, _, (rfl : descriptor 0x71 = some ⟨.adc, .izy, 5, true⟩)⟩,
    (rfl : (lookup 0x71).map (fun r => r.make z 0) = some (.adcIzy z))⟩
theorem TableRow.adcZpx (z : Byte) : TableRow.Statement (.adcZpx z) := 
  ⟨⟨_, _, (rfl : descriptor 0x75 = some ⟨.adc, .zpx, 4, false⟩)⟩,
    (rfl : (lookup 0x75).map (fun r => r.make z 0) = some (.adcZpx z))⟩
theorem TableRow.adcAby (a : Word) : TableRow.Statement (.adcAby a) := 
  ⟨⟨_, _, (rfl : descriptor 0x79 = some ⟨.adc, .aby, 4, true⟩)⟩,
    (rfl : (lookup 0x79).map (fun r => r.make (lo a) (hi a)) = some (.adcAby (join (hi a) (lo a)))).trans
      (congrArg (fun w => some (Instr.adcAby w)) (join_hi_lo a))⟩
theorem TableRow.adcAbx (a : Word) : TableRow.Statement (.adcAbx a) := 
  ⟨⟨_, _, (rfl : descriptor 0x7D = some ⟨.adc, .abx, 4, true⟩)⟩,
    (rfl : (lookup 0x7D).map (fun r => r.make (lo a) (hi a)) = some (.adcAbx (join (hi a) (lo a)))).trans
      (congrArg (fun w => some (Instr.adcAbx w)) (join_hi_lo a))⟩
theorem TableRow.andIzx (z : Byte) : TableRow.Statement (.andIzx z) := 
  ⟨⟨_, _, (rfl : descriptor 0x21 = some ⟨.and, .izx, 6, false⟩)⟩,
    (rfl : (lookup 0x21).map (fun r => r.make z 0) = some (.andIzx z))⟩
theorem TableRow.andZp (z : Byte) : TableRow.Statement (.andZp z) := 
  ⟨⟨_, _, (rfl : descriptor 0x25 = some ⟨.and, .zp, 3, false⟩)⟩,
    (rfl : (lookup 0x25).map (fun r => r.make z 0) = some (.andZp z))⟩
theorem TableRow.andImm (v : Byte) : TableRow.Statement (.andImm v) := 
  ⟨⟨_, _, (rfl : descriptor 0x29 = some ⟨.and, .imm, 2, false⟩)⟩,
    (rfl : (lookup 0x29).map (fun r => r.make v 0) = some (.andImm v))⟩
theorem TableRow.andAbs (a : Word) : TableRow.Statement (.andAbs a) := 
  ⟨⟨_, _, (rfl : descriptor 0x2D = some ⟨.and, .abs, 4, false⟩)⟩,
    (rfl : (lookup 0x2D).map (fun r => r.make (lo a) (hi a)) = some (.andAbs (join (hi a) (lo a)))).trans
      (congrArg (fun w => some (Instr.andAbs w)) (join_hi_lo a))⟩
theorem TableRow.andIzy (z : Byte) : TableRow.Statement (.andIzy z) := 
  ⟨⟨_, _, (rfl : descriptor 0x31 = some ⟨.and, .izy, 5, true⟩)⟩,
    (rfl : (lookup 0x31).map (fun r => r.make z 0) = some (.andIzy z))⟩
theorem TableRow.andZpx (z : Byte) : TableRow.Statement (.andZpx z) := 
  ⟨⟨_, _, (rfl : descriptor 0x35 = some ⟨.and, .zpx, 4, false⟩)⟩,
    (rfl : (lookup 0x35).map (fun r => r.make z 0) = some (.andZpx z))⟩
theorem TableRow.andAby (a : Word) : TableRow.Statement (.andAby a) := 
  ⟨⟨_, _, (rfl : descriptor 0x39 = some ⟨.and, .aby, 4, true⟩)⟩,
    (rfl : (lookup 0x39).map (fun r => r.make (lo a) (hi a)) = some (.andAby (join (hi a) (lo a)))).trans
      (congrArg (fun w => some (Instr.andAby w)) (join_hi_lo a))⟩
theorem TableRow.andAbx (a : Word) : TableRow.Statement (.andAbx a) := 
  ⟨⟨_, _, (rfl : descriptor 0x3D = some ⟨.and, .abx, 4, true⟩)⟩,
    (rfl : (lookup 0x3D).map (fun r => r.make (lo a) (hi a)) = some (.andAbx (join (hi a) (lo a)))).trans
      (congrArg (fun w => some (Instr.andAbx w)) (join_hi_lo a))⟩
theorem TableRow.aslZp (z : Byte) : TableRow.Statement (.aslZp z) := 
  ⟨⟨_, _, (rfl : descriptor 0x06 = some ⟨.asl, .zp, 5, false⟩)⟩,
    (rfl : (lookup 0x06).map (fun r => r.make z 0) = some (.aslZp z))⟩
theorem TableRow.aslAcc : TableRow.Statement .aslAcc := 
  ⟨⟨_, _, (rfl : descriptor 0x0A = some ⟨.asl, .acc, 2, false⟩)⟩,
    (rfl : (lookup 0x0A).map (fun r => r.make 0 0) = some .aslAcc)⟩
theorem TableRow.aslAbs (a : Word) : TableRow.Statement (.aslAbs a) := 
  ⟨⟨_, _, (rfl : descriptor 0x0E = some ⟨.asl, .abs, 6, false⟩)⟩,
    (rfl : (lookup 0x0E).map (fun r => r.make (lo a) (hi a)) = some (.aslAbs (join (hi a) (lo a)))).trans
      (congrArg (fun w => some (Instr.aslAbs w)) (join_hi_lo a))⟩
theorem TableRow.aslZpx (z : Byte) : TableRow.Statement (.aslZpx z) := 
  ⟨⟨_, _, (rfl : descriptor 0x16 = some ⟨.asl, .zpx, 6, false⟩)⟩,
    (rfl : (lookup 0x16).map (fun r => r.make z 0) = some (.aslZpx z))⟩
theorem TableRow.aslAbx (a : Word) : TableRow.Statement (.aslAbx a) := 
  ⟨⟨_, _, (rfl : descriptor 0x1E = some ⟨.asl, .abx, 7, false⟩)⟩,
    (rfl : (lookup 0x1E).map (fun r => r.make (lo a) (hi a)) = some (.aslAbx (join (hi a) (lo a)))).trans
      (congrArg (fun w => some (Instr.aslAbx w)) (join_hi_lo a))⟩
theorem TableRow.bcc (o : Byte) : TableRow.Statement (.bcc o) := 
  ⟨⟨_, _, (rfl : descriptor 0x90 = some ⟨.bcc, .rel, 2, true⟩)⟩,
    (rfl : (lookup 0x90).map (fun r => r.make o 0) = some (.bcc o))⟩
theorem TableRow.bcs (o : Byte) : TableRow.Statement (.bcs o) := 
  ⟨⟨_, _, (rfl : descriptor 0xB0 = some ⟨.bcs, .rel, 2, true⟩)⟩,
    (rfl : (lookup 0xB0).map (fun r => r.make o 0) = some (.bcs o))⟩
theorem TableRow.beq (o : Byte) : TableRow.Statement (.beq o) := 
  ⟨⟨_, _, (rfl : descriptor 0xF0 = some ⟨.beq, .rel, 2, true⟩)⟩,
    (rfl : (lookup 0xF0).map (fun r => r.make o 0) = some (.beq o))⟩
theorem TableRow.bitZp (z : Byte) : TableRow.Statement (.bitZp z) := 
  ⟨⟨_, _, (rfl : descriptor 0x24 = some ⟨.bit, .zp, 3, false⟩)⟩,
    (rfl : (lookup 0x24).map (fun r => r.make z 0) = some (.bitZp z))⟩
theorem TableRow.bitAbs (a : Word) : TableRow.Statement (.bitAbs a) := 
  ⟨⟨_, _, (rfl : descriptor 0x2C = some ⟨.bit, .abs, 4, false⟩)⟩,
    (rfl : (lookup 0x2C).map (fun r => r.make (lo a) (hi a)) = some (.bitAbs (join (hi a) (lo a)))).trans
      (congrArg (fun w => some (Instr.bitAbs w)) (join_hi_lo a))⟩
theorem TableRow.bmi (o : Byte) : TableRow.Statement (.bmi o) := 
  ⟨⟨_, _, (rfl : descriptor 0x30 = some ⟨.bmi, .rel, 2, true⟩)⟩,
    (rfl : (lookup 0x30).map (fun r => r.make o 0) = some (.bmi o))⟩
theorem TableRow.bne (o : Byte) : TableRow.Statement (.bne o) := 
  ⟨⟨_, _, (rfl : descriptor 0xD0 = some ⟨.bne, .rel, 2, true⟩)⟩,
    (rfl : (lookup 0xD0).map (fun r => r.make o 0) = some (.bne o))⟩
theorem TableRow.bpl (o : Byte) : TableRow.Statement (.bpl o) := 
  ⟨⟨_, _, (rfl : descriptor 0x10 = some ⟨.bpl, .rel, 2, true⟩)⟩,
    (rfl : (lookup 0x10).map (fun r => r.make o 0) = some (.bpl o))⟩
theorem TableRow.brk : TableRow.Statement .brk := 
  ⟨⟨_, _, (rfl : descriptor 0x00 = some ⟨.brk, .imp, 7, false⟩)⟩,
    (rfl : (lookup 0x00).map (fun r => r.make 0 0) = some .brk)⟩
theorem TableRow.bvc (o : Byte) : TableRow.Statement (.bvc o) := 
  ⟨⟨_, _, (rfl : descriptor 0x50 = some ⟨.bvc, .rel, 2, true⟩)⟩,
    (rfl : (lookup 0x50).map (fun r => r.make o 0) = some (.bvc o))⟩
theorem TableRow.bvs (o : Byte) : TableRow.Statement (.bvs o) := 
  ⟨⟨_, _, (rfl : descriptor 0x70 = some ⟨.bvs, .rel, 2, true⟩)⟩,
    (rfl : (lookup 0x70).map (fun r => r.make o 0) = some (.bvs o))⟩
theorem TableRow.clc : TableRow.Statement .clc := 
  ⟨⟨_, _, (rfl : descriptor 0x18 = some ⟨.clc, .imp, 2, false⟩)⟩,
    (rfl : (lookup 0x18).map (fun r => r.make 0 0) = some .clc)⟩
theorem TableRow.cld : TableRow.Statement .cld := 
  ⟨⟨_, _, (rfl : descriptor 0xD8 = some ⟨.cld, .imp, 2, false⟩)⟩,
    (rfl : (lookup 0xD8).map (fun r => r.make 0 0) = some .cld)⟩
theorem TableRow.cli : TableRow.Statement .cli := 
  ⟨⟨_, _, (rfl : descriptor 0x58 = some ⟨.cli, .imp, 2, false⟩)⟩,
    (rfl : (lookup 0x58).map (fun r => r.make 0 0) = some .cli)⟩
theorem TableRow.clv : TableRow.Statement .clv := 
  ⟨⟨_, _, (rfl : descriptor 0xB8 = some ⟨.clv, .imp, 2, false⟩)⟩,
    (rfl : (lookup 0xB8).map (fun r => r.make 0 0) = some .clv)⟩
theorem TableRow.cmpIzx (z : Byte) : TableRow.Statement (.cmpIzx z) := 
  ⟨⟨_, _, (rfl : descriptor 0xC1 = some ⟨.cmp, .izx, 6, false⟩)⟩,
    (rfl : (lookup 0xC1).map (fun r => r.make z 0) = some (.cmpIzx z))⟩
theorem TableRow.cmpZp (z : Byte) : TableRow.Statement (.cmpZp z) := 
  ⟨⟨_, _, (rfl : descriptor 0xC5 = some ⟨.cmp, .zp, 3, false⟩)⟩,
    (rfl : (lookup 0xC5).map (fun r => r.make z 0) = some (.cmpZp z))⟩
theorem TableRow.cmpImm (v : Byte) : TableRow.Statement (.cmpImm v) := 
  ⟨⟨_, _, (rfl : descriptor 0xC9 = some ⟨.cmp, .imm, 2, false⟩)⟩,
    (rfl : (lookup 0xC9).map (fun r => r.make v 0) = some (.cmpImm v))⟩
theorem TableRow.cmpAbs (a : Word) : TableRow.Statement (.cmpAbs a) := 
  ⟨⟨_, _, (rfl : descriptor 0xCD = some ⟨.cmp, .abs, 4, false⟩)⟩,
    (rfl : (lookup 0xCD).map (fun r => r.make (lo a) (hi a)) = some (.cmpAbs (join (hi a) (lo a)))).trans
      (congrArg (fun w => some (Instr.cmpAbs w)) (join_hi_lo a))⟩
theorem TableRow.cmpIzy (z : Byte) : TableRow.Statement (.cmpIzy z) := 
  ⟨⟨_, _, (rfl : descriptor 0xD1 = some ⟨.cmp, .izy, 5, true⟩)⟩,
    (rfl : (lookup 0xD1).map (fun r => r.make z 0) = some (.cmpIzy z))⟩
theorem TableRow.cmpZpx (z : Byte) : TableRow.Statement (.cmpZpx z) := 
  ⟨⟨_, _, (rfl : descriptor 0xD5 = some ⟨.cmp, .zpx, 4, false⟩)⟩,
    (rfl : (lookup 0xD5).map (fun r => r.make z 0) = some (.cmpZpx z))⟩
theorem TableRow.cmpAby (a : Word) : TableRow.Statement (.cmpAby a) := 
  ⟨⟨_, _, (rfl : descriptor 0xD9 = some ⟨.cmp, .aby, 4, true⟩)⟩,
    (rfl : (lookup 0xD9).map (fun r => r.make (lo a) (hi a)) = some (.cmpAby (join (hi a) (lo a)))).trans
      (congrArg (fun w => some (Instr.cmpAby w)) (join_hi_lo a))⟩
theorem TableRow.cmpAbx (a : Word) : TableRow.Statement (.cmpAbx a) := 
  ⟨⟨_, _, (rfl : descriptor 0xDD = some ⟨.cmp, .abx, 4, true⟩)⟩,
    (rfl : (lookup 0xDD).map (fun r => r.make (lo a) (hi a)) = some (.cmpAbx (join (hi a) (lo a)))).trans
      (congrArg (fun w => some (Instr.cmpAbx w)) (join_hi_lo a))⟩
theorem TableRow.cpxImm (v : Byte) : TableRow.Statement (.cpxImm v) := 
  ⟨⟨_, _, (rfl : descriptor 0xE0 = some ⟨.cpx, .imm, 2, false⟩)⟩,
    (rfl : (lookup 0xE0).map (fun r => r.make v 0) = some (.cpxImm v))⟩
theorem TableRow.cpxZp (z : Byte) : TableRow.Statement (.cpxZp z) := 
  ⟨⟨_, _, (rfl : descriptor 0xE4 = some ⟨.cpx, .zp, 3, false⟩)⟩,
    (rfl : (lookup 0xE4).map (fun r => r.make z 0) = some (.cpxZp z))⟩
theorem TableRow.cpxAbs (a : Word) : TableRow.Statement (.cpxAbs a) := 
  ⟨⟨_, _, (rfl : descriptor 0xEC = some ⟨.cpx, .abs, 4, false⟩)⟩,
    (rfl : (lookup 0xEC).map (fun r => r.make (lo a) (hi a)) = some (.cpxAbs (join (hi a) (lo a)))).trans
      (congrArg (fun w => some (Instr.cpxAbs w)) (join_hi_lo a))⟩
theorem TableRow.cpyImm (v : Byte) : TableRow.Statement (.cpyImm v) := 
  ⟨⟨_, _, (rfl : descriptor 0xC0 = some ⟨.cpy, .imm, 2, false⟩)⟩,
    (rfl : (lookup 0xC0).map (fun r => r.make v 0) = some (.cpyImm v))⟩
theorem TableRow.cpyZp (z : Byte) : TableRow.Statement (.cpyZp z) := 
  ⟨⟨_, _, (rfl : descriptor 0xC4 = some ⟨.cpy, .zp, 3, false⟩)⟩,
    (rfl : (lookup 0xC4).map (fun r => r.make z 0) = some (.cpyZp z))⟩
theorem TableRow.cpyAbs (a : Word) : TableRow.Statement (.cpyAbs a) := 
  ⟨⟨_, _, (rfl : descriptor 0xCC = some ⟨.cpy, .abs, 4, false⟩)⟩,
    (rfl : (lookup 0xCC).map (fun r => r.make (lo a) (hi a)) = some (.cpyAbs (join (hi a) (lo a)))).trans
      (congrArg (fun w => some (Instr.cpyAbs w)) (join_hi_lo a))⟩
theorem TableRow.decZp (z : Byte) : TableRow.Statement (.decZp z) := 
  ⟨⟨_, _, (rfl : descriptor 0xC6 = some ⟨.dec, .zp, 5, false⟩)⟩,
    (rfl : (lookup 0xC6).map (fun r => r.make z 0) = some (.decZp z))⟩
theorem TableRow.decAbs (a : Word) : TableRow.Statement (.decAbs a) := 
  ⟨⟨_, _, (rfl : descriptor 0xCE = some ⟨.dec, .abs, 6, false⟩)⟩,
    (rfl : (lookup 0xCE).map (fun r => r.make (lo a) (hi a)) = some (.decAbs (join (hi a) (lo a)))).trans
      (congrArg (fun w => some (Instr.decAbs w)) (join_hi_lo a))⟩
theorem TableRow.decZpx (z : Byte) : TableRow.Statement (.decZpx z) := 
  ⟨⟨_, _, (rfl : descriptor 0xD6 = some ⟨.dec, .zpx, 6, false⟩)⟩,
    (rfl : (lookup 0xD6).map (fun r => r.make z 0) = some (.decZpx z))⟩
theorem TableRow.decAbx (a : Word) : TableRow.Statement (.decAbx a) := 
  ⟨⟨_, _, (rfl : descriptor 0xDE = some ⟨.dec, .abx, 7, false⟩)⟩,
    (rfl : (lookup 0xDE).map (fun r => r.make (lo a) (hi a)) = some (.decAbx (join (hi a) (lo a)))).trans
      (congrArg (fun w => some (Instr.decAbx w)) (join_hi_lo a))⟩
theorem TableRow.dex : TableRow.Statement .dex := 
  ⟨⟨_, _, (rfl : descriptor 0xCA = some ⟨.dex, .imp, 2, false⟩)⟩,
    (rfl : (lookup 0xCA).map (fun r => r.make 0 0) = some .dex)⟩
theorem TableRow.dey : TableRow.Statement .dey := 
  ⟨⟨_, _, (rfl : descriptor 0x88 = some ⟨.dey, .imp, 2, false⟩)⟩,
    (rfl : (lookup 0x88).map (fun r => r.make 0 0) = some .dey)⟩
theorem TableRow.eorIzx (z : Byte) : TableRow.Statement (.eorIzx z) := 
  ⟨⟨_, _, (rfl : descriptor 0x41 = some ⟨.eor, .izx, 6, false⟩)⟩,
    (rfl : (lookup 0x41).map (fun r => r.make z 0) = some (.eorIzx z))⟩
theorem TableRow.eorZp (z : Byte) : TableRow.Statement (.eorZp z) := 
  ⟨⟨_, _, (rfl : descriptor 0x45 = some ⟨.eor, .zp, 3, false⟩)⟩,
    (rfl : (lookup 0x45).map (fun r => r.make z 0) = some (.eorZp z))⟩
theorem TableRow.eorImm (v : Byte) : TableRow.Statement (.eorImm v) := 
  ⟨⟨_, _, (rfl : descriptor 0x49 = some ⟨.eor, .imm, 2, false⟩)⟩,
    (rfl : (lookup 0x49).map (fun r => r.make v 0) = some (.eorImm v))⟩
theorem TableRow.eorAbs (a : Word) : TableRow.Statement (.eorAbs a) := 
  ⟨⟨_, _, (rfl : descriptor 0x4D = some ⟨.eor, .abs, 4, false⟩)⟩,
    (rfl : (lookup 0x4D).map (fun r => r.make (lo a) (hi a)) = some (.eorAbs (join (hi a) (lo a)))).trans
      (congrArg (fun w => some (Instr.eorAbs w)) (join_hi_lo a))⟩
theorem TableRow.eorIzy (z : Byte) : TableRow.Statement (.eorIzy z) := 
  ⟨⟨_, _, (rfl : descriptor 0x51 = some ⟨.eor, .izy, 5, true⟩)⟩,
    (rfl : (lookup 0x51).map (fun r => r.make z 0) = some (.eorIzy z))⟩
theorem TableRow.eorZpx (z : Byte) : TableRow.Statement (.eorZpx z) := 
  ⟨⟨_, _, (rfl : descriptor 0x55 = some ⟨.eor, .zpx, 4, false⟩)⟩,
    (rfl : (lookup 0x55).map (fun r => r.make z 0) = some (.eorZpx z))⟩
theorem TableRow.eorAby (a : Word) : TableRow.Statement (.eorAby a) := 
  ⟨⟨_, _, (rfl : descriptor 0x59 = some ⟨.eor, .aby, 4, true⟩)⟩,
    (rfl : (lookup 0x59).map (fun r => r.make (lo a) (hi a)) = some (.eorAby (join (hi a) (lo a)))).trans
      (congrArg (fun w => some (Instr.eorAby w)) (join_hi_lo a))⟩
theorem TableRow.eorAbx (a : Word) : TableRow.Statement (.eorAbx a) := 
  ⟨⟨_, _, (rfl : descriptor 0x5D = some ⟨.eor, .abx, 4, true⟩)⟩,
    (rfl : (lookup 0x5D).map (fun r => r.make (lo a) (hi a)) = some (.eorAbx (join (hi a) (lo a)))).trans
      (congrArg (fun w => some (Instr.eorAbx w)) (join_hi_lo a))⟩
theorem TableRow.incZp (z : Byte) : TableRow.Statement (.incZp z) := 
  ⟨⟨_, _, (rfl : descriptor 0xE6 = some ⟨.inc, .zp, 5, false⟩)⟩,
    (rfl : (lookup 0xE6).map (fun r => r.make z 0) = some (.incZp z))⟩
theorem TableRow.incAbs (a : Word) : TableRow.Statement (.incAbs a) := 
  ⟨⟨_, _, (rfl : descriptor 0xEE = some ⟨.inc, .abs, 6, false⟩)⟩,
    (rfl : (lookup 0xEE).map (fun r => r.make (lo a) (hi a)) = some (.incAbs (join (hi a) (lo a)))).trans
      (congrArg (fun w => some (Instr.incAbs w)) (join_hi_lo a))⟩
theorem TableRow.incZpx (z : Byte) : TableRow.Statement (.incZpx z) := 
  ⟨⟨_, _, (rfl : descriptor 0xF6 = some ⟨.inc, .zpx, 6, false⟩)⟩,
    (rfl : (lookup 0xF6).map (fun r => r.make z 0) = some (.incZpx z))⟩
theorem TableRow.incAbx (a : Word) : TableRow.Statement (.incAbx a) := 
  ⟨⟨_, _, (rfl : descriptor 0xFE = some ⟨.inc, .abx, 7, false⟩)⟩,
    (rfl : (lookup 0xFE).map (fun r => r.make (lo a) (hi a)) = some (.incAbx (join (hi a) (lo a)))).trans
      (congrArg (fun w => some (Instr.incAbx w)) (join_hi_lo a))⟩
theorem TableRow.inx : TableRow.Statement .inx := 
  ⟨⟨_, _, (rfl : descriptor 0xE8 = some ⟨.inx, .imp, 2, false⟩)⟩,
    (rfl : (lookup 0xE8).map (fun r => r.make 0 0) = some .inx)⟩
theorem TableRow.iny : TableRow.Statement .iny := 
  ⟨⟨_, _, (rfl : descriptor 0xC8 = some ⟨.iny, .imp, 2, false⟩)⟩,
    (rfl : (lookup 0xC8).map (fun r => r.make 0 0) = some .iny)⟩
theorem TableRow.jmpAbs (a : Word) : TableRow.Statement (.jmpAbs a) := 
  ⟨⟨_, _, (rfl : descriptor 0x4C = some ⟨.jmp, .abs, 3, false⟩)⟩,
    (rfl : (lookup 0x4C).map (fun r => r.make (lo a) (hi a)) = some (.jmpAbs (join (hi a) (lo a)))).trans
      (congrArg (fun w => some (Instr.jmpAbs w)) (join_hi_lo a))⟩
theorem TableRow.jmpInd (a : Word) : TableRow.Statement (.jmpInd a) := 
  ⟨⟨_, _, (rfl : descriptor 0x6C = some ⟨.jmp, .ind, 5, false⟩)⟩,
    (rfl : (lookup 0x6C).map (fun r => r.make (lo a) (hi a)) = some (.jmpInd (join (hi a) (lo a)))).trans
      (congrArg (fun w => some (Instr.jmpInd w)) (join_hi_lo a))⟩
theorem TableRow.jsr (a : Word) : TableRow.Statement (.jsr a) := 
  ⟨⟨_, _, (rfl : descriptor 0x20 = some ⟨.jsr, .abs, 6, false⟩)⟩,
    (rfl : (lookup 0x20).map (fun r => r.make (lo a) (hi a)) = some (.jsr (join (hi a) (lo a)))).trans
      (congrArg (fun w => some (Instr.jsr w)) (join_hi_lo a))⟩
theorem TableRow.ldaIzx (z : Byte) : TableRow.Statement (.ldaIzx z) := 
  ⟨⟨_, _, (rfl : descriptor 0xA1 = some ⟨.lda, .izx, 6, false⟩)⟩,
    (rfl : (lookup 0xA1).map (fun r => r.make z 0) = some (.ldaIzx z))⟩
theorem TableRow.ldaZp (z : Byte) : TableRow.Statement (.ldaZp z) := 
  ⟨⟨_, _, (rfl : descriptor 0xA5 = some ⟨.lda, .zp, 3, false⟩)⟩,
    (rfl : (lookup 0xA5).map (fun r => r.make z 0) = some (.ldaZp z))⟩
theorem TableRow.ldaImm (v : Byte) : TableRow.Statement (.ldaImm v) := 
  ⟨⟨_, _, (rfl : descriptor 0xA9 = some ⟨.lda, .imm, 2, false⟩)⟩,
    (rfl : (lookup 0xA9).map (fun r => r.make v 0) = some (.ldaImm v))⟩
theorem TableRow.ldaAbs (a : Word) : TableRow.Statement (.ldaAbs a) := 
  ⟨⟨_, _, (rfl : descriptor 0xAD = some ⟨.lda, .abs, 4, false⟩)⟩,
    (rfl : (lookup 0xAD).map (fun r => r.make (lo a) (hi a)) = some (.ldaAbs (join (hi a) (lo a)))).trans
      (congrArg (fun w => some (Instr.ldaAbs w)) (join_hi_lo a))⟩
theorem TableRow.ldaIzy (z : Byte) : TableRow.Statement (.ldaIzy z) := 
  ⟨⟨_, _, (rfl : descriptor 0xB1 = some ⟨.lda, .izy, 5, true⟩)⟩,
    (rfl : (lookup 0xB1).map (fun r => r.make z 0) = some (.ldaIzy z))⟩
theorem TableRow.ldaZpx (z : Byte) : TableRow.Statement (.ldaZpx z) := 
  ⟨⟨_, _, (rfl : descriptor 0xB5 = some ⟨.lda, .zpx, 4, false⟩)⟩,
    (rfl : (lookup 0xB5).map (fun r => r.make z 0) = some (.ldaZpx z))⟩
theorem TableRow.ldaAby (a : Word) : TableRow.Statement (.ldaAby a) := 
  ⟨⟨_, _, (rfl : descriptor 0xB9 = some ⟨.lda, .aby, 4, true⟩)⟩,
    (rfl : (lookup 0xB9).map (fun r => r.make (lo a) (hi a)) = some (.ldaAby (join (hi a) (lo a)))).trans
      (congrArg (fun w => some (Instr.ldaAby w)) (join_hi_lo a))⟩
theorem TableRow.ldaAbx (a : Word) : TableRow.Statement (.ldaAbx a) := 
  ⟨⟨_, _, (rfl : descriptor 0xBD = some ⟨.lda, .abx, 4, true⟩)⟩,
    (rfl : (lookup 0xBD).map (fun r => r.make (lo a) (hi a)) = some (.ldaAbx (join (hi a) (lo a)))).trans
      (congrArg (fun w => some (Instr.ldaAbx w)) (join_hi_lo a))⟩
theorem TableRow.ldxImm (v : Byte) : TableRow.Statement (.ldxImm v) := 
  ⟨⟨_, _, (rfl : descriptor 0xA2 = some ⟨.ldx, .imm, 2, false⟩)⟩,
    (rfl : (lookup 0xA2).map (fun r => r.make v 0) = some (.ldxImm v))⟩
theorem TableRow.ldxZp (z : Byte) : TableRow.Statement (.ldxZp z) := 
  ⟨⟨_, _, (rfl : descriptor 0xA6 = some ⟨.ldx, .zp, 3, false⟩)⟩,
    (rfl : (lookup 0xA6).map (fun r => r.make z 0) = some (.ldxZp z))⟩
theorem TableRow.ldxAbs (a : Word) : TableRow.Statement (.ldxAbs a) := 
  ⟨⟨_, _, (rfl : descriptor 0xAE = some ⟨.ldx, .abs, 4, false⟩)⟩,
    (rfl : (lookup 0xAE).map (fun r => r.make (lo a) (hi a)) = some (.ldxAbs (join (hi a) (lo a)))).trans
      (congrArg (fun w => some (Instr.ldxAbs w)) (join_hi_lo a))⟩
theorem TableRow.ldxZpy (z : Byte) : TableRow.Statement (.ldxZpy z) := 
  ⟨⟨_, _, (rfl : descriptor 0xB6 = some ⟨.ldx, .zpy, 4, false⟩)⟩,
    (rfl : (lookup 0xB6).map (fun r => r.make z 0) = some (.ldxZpy z))⟩
theorem TableRow.ldxAby (a : Word) : TableRow.Statement (.ldxAby a) := 
  ⟨⟨_, _, (rfl : descriptor 0xBE = some ⟨.ldx, .aby, 4, true⟩)⟩,
    (rfl : (lookup 0xBE).map (fun r => r.make (lo a) (hi a)) = some (.ldxAby (join (hi a) (lo a)))).trans
      (congrArg (fun w => some (Instr.ldxAby w)) (join_hi_lo a))⟩
theorem TableRow.ldyImm (v : Byte) : TableRow.Statement (.ldyImm v) := 
  ⟨⟨_, _, (rfl : descriptor 0xA0 = some ⟨.ldy, .imm, 2, false⟩)⟩,
    (rfl : (lookup 0xA0).map (fun r => r.make v 0) = some (.ldyImm v))⟩
theorem TableRow.ldyZp (z : Byte) : TableRow.Statement (.ldyZp z) := 
  ⟨⟨_, _, (rfl : descriptor 0xA4 = some ⟨.ldy, .zp, 3, false⟩)⟩,
    (rfl : (lookup 0xA4).map (fun r => r.make z 0) = some (.ldyZp z))⟩
theorem TableRow.ldyAbs (a : Word) : TableRow.Statement (.ldyAbs a) := 
  ⟨⟨_, _, (rfl : descriptor 0xAC = some ⟨.ldy, .abs, 4, false⟩)⟩,
    (rfl : (lookup 0xAC).map (fun r => r.make (lo a) (hi a)) = some (.ldyAbs (join (hi a) (lo a)))).trans
      (congrArg (fun w => some (Instr.ldyAbs w)) (join_hi_lo a))⟩
theorem TableRow.ldyZpx (z : Byte) : TableRow.Statement (.ldyZpx z) := 
  ⟨⟨_, _, (rfl : descriptor 0xB4 = some ⟨.ldy, .zpx, 4, false⟩)⟩,
    (rfl : (lookup 0xB4).map (fun r => r.make z 0) = some (.ldyZpx z))⟩
theorem TableRow.ldyAbx (a : Word) : TableRow.Statement (.ldyAbx a) := 
  ⟨⟨_, _, (rfl : descriptor 0xBC = some ⟨.ldy, .abx, 4, true⟩)⟩,
    (rfl : (lookup 0xBC).map (fun r => r.make (lo a) (hi a)) = some (.ldyAbx (join (hi a) (lo a)))).trans
      (congrArg (fun w => some (Instr.ldyAbx w)) (join_hi_lo a))⟩
theorem TableRow.lsrZp (z : Byte) : TableRow.Statement (.lsrZp z) := 
  ⟨⟨_, _, (rfl : descriptor 0x46 = some ⟨.lsr, .zp, 5, false⟩)⟩,
    (rfl : (lookup 0x46).map (fun r => r.make z 0) = some (.lsrZp z))⟩
theorem TableRow.lsrAcc : TableRow.Statement .lsrAcc := 
  ⟨⟨_, _, (rfl : descriptor 0x4A = some ⟨.lsr, .acc, 2, false⟩)⟩,
    (rfl : (lookup 0x4A).map (fun r => r.make 0 0) = some .lsrAcc)⟩
theorem TableRow.lsrAbs (a : Word) : TableRow.Statement (.lsrAbs a) := 
  ⟨⟨_, _, (rfl : descriptor 0x4E = some ⟨.lsr, .abs, 6, false⟩)⟩,
    (rfl : (lookup 0x4E).map (fun r => r.make (lo a) (hi a)) = some (.lsrAbs (join (hi a) (lo a)))).trans
      (congrArg (fun w => some (Instr.lsrAbs w)) (join_hi_lo a))⟩
theorem TableRow.lsrZpx (z : Byte) : TableRow.Statement (.lsrZpx z) := 
  ⟨⟨_, _, (rfl : descriptor 0x56 = some ⟨.lsr, .zpx, 6, false⟩)⟩,
    (rfl : (lookup 0x56).map (fun r => r.make z 0) = some (.lsrZpx z))⟩
theorem TableRow.lsrAbx (a : Word) : TableRow.Statement (.lsrAbx a) := 
  ⟨⟨_, _, (rfl : descriptor 0x5E = some ⟨.lsr, .abx, 7, false⟩)⟩,
    (rfl : (lookup 0x5E).map (fun r => r.make (lo a) (hi a)) = some (.lsrAbx (join (hi a) (lo a)))).trans
      (congrArg (fun w => some (Instr.lsrAbx w)) (join_hi_lo a))⟩
theorem TableRow.nop : TableRow.Statement .nop := 
  ⟨⟨_, _, (rfl : descriptor 0xEA = some ⟨.nop, .imp, 2, false⟩)⟩,
    (rfl : (lookup 0xEA).map (fun r => r.make 0 0) = some .nop)⟩
theorem TableRow.oraIzx (z : Byte) : TableRow.Statement (.oraIzx z) := 
  ⟨⟨_, _, (rfl : descriptor 0x01 = some ⟨.ora, .izx, 6, false⟩)⟩,
    (rfl : (lookup 0x01).map (fun r => r.make z 0) = some (.oraIzx z))⟩
theorem TableRow.oraZp (z : Byte) : TableRow.Statement (.oraZp z) := 
  ⟨⟨_, _, (rfl : descriptor 0x05 = some ⟨.ora, .zp, 3, false⟩)⟩,
    (rfl : (lookup 0x05).map (fun r => r.make z 0) = some (.oraZp z))⟩
theorem TableRow.oraImm (v : Byte) : TableRow.Statement (.oraImm v) := 
  ⟨⟨_, _, (rfl : descriptor 0x09 = some ⟨.ora, .imm, 2, false⟩)⟩,
    (rfl : (lookup 0x09).map (fun r => r.make v 0) = some (.oraImm v))⟩
theorem TableRow.oraAbs (a : Word) : TableRow.Statement (.oraAbs a) := 
  ⟨⟨_, _, (rfl : descriptor 0x0D = some ⟨.ora, .abs, 4, false⟩)⟩,
    (rfl : (lookup 0x0D).map (fun r => r.make (lo a) (hi a)) = some (.oraAbs (join (hi a) (lo a)))).trans
      (congrArg (fun w => some (Instr.oraAbs w)) (join_hi_lo a))⟩
theorem TableRow.oraIzy (z : Byte) : TableRow.Statement (.oraIzy z) := 
  ⟨⟨_, _, (rfl : descriptor 0x11 = some ⟨.ora, .izy, 5, true⟩)⟩,
    (rfl : (lookup 0x11).map (fun r => r.make z 0) = some (.oraIzy z))⟩
theorem TableRow.oraZpx (z : Byte) : TableRow.Statement (.oraZpx z) := 
  ⟨⟨_, _, (rfl : descriptor 0x15 = some ⟨.ora, .zpx, 4, false⟩)⟩,
    (rfl : (lookup 0x15).map (fun r => r.make z 0) = some (.oraZpx z))⟩
theorem TableRow.oraAby (a : Word) : TableRow.Statement (.oraAby a) := 
  ⟨⟨_, _, (rfl : descriptor 0x19 = some ⟨.ora, .aby, 4, true⟩)⟩,
    (rfl : (lookup 0x19).map (fun r => r.make (lo a) (hi a)) = some (.oraAby (join (hi a) (lo a)))).trans
      (congrArg (fun w => some (Instr.oraAby w)) (join_hi_lo a))⟩
theorem TableRow.oraAbx (a : Word) : TableRow.Statement (.oraAbx a) := 
  ⟨⟨_, _, (rfl : descriptor 0x1D = some ⟨.ora, .abx, 4, true⟩)⟩,
    (rfl : (lookup 0x1D).map (fun r => r.make (lo a) (hi a)) = some (.oraAbx (join (hi a) (lo a)))).trans
      (congrArg (fun w => some (Instr.oraAbx w)) (join_hi_lo a))⟩
theorem TableRow.pha : TableRow.Statement .pha := 
  ⟨⟨_, _, (rfl : descriptor 0x48 = some ⟨.pha, .imp, 3, false⟩)⟩,
    (rfl : (lookup 0x48).map (fun r => r.make 0 0) = some .pha)⟩
theorem TableRow.php : TableRow.Statement .php := 
  ⟨⟨_, _, (rfl : descriptor 0x08 = some ⟨.php, .imp, 3, false⟩)⟩,
    (rfl : (lookup 0x08).map (fun r => r.make 0 0) = some .php)⟩
theorem TableRow.pla : TableRow.Statement .pla := 
  ⟨⟨_, _, (rfl : descriptor 0x68 = some ⟨.pla, .imp, 4, false⟩)⟩,
    (rfl : (lookup 0x68).map (fun r => r.make 0 0) = some .pla)⟩
theorem TableRow.plp : TableRow.Statement .plp := 
  ⟨⟨_, _, (rfl : descriptor 0x28 = some ⟨.plp, .imp, 4, false⟩)⟩,
    (rfl : (lookup 0x28).map (fun r => r.make 0 0) = some .plp)⟩
theorem TableRow.rolZp (z : Byte) : TableRow.Statement (.rolZp z) := 
  ⟨⟨_, _, (rfl : descriptor 0x26 = some ⟨.rol, .zp, 5, false⟩)⟩,
    (rfl : (lookup 0x26).map (fun r => r.make z 0) = some (.rolZp z))⟩
theorem TableRow.rolAcc : TableRow.Statement .rolAcc := 
  ⟨⟨_, _, (rfl : descriptor 0x2A = some ⟨.rol, .acc, 2, false⟩)⟩,
    (rfl : (lookup 0x2A).map (fun r => r.make 0 0) = some .rolAcc)⟩
theorem TableRow.rolAbs (a : Word) : TableRow.Statement (.rolAbs a) := 
  ⟨⟨_, _, (rfl : descriptor 0x2E = some ⟨.rol, .abs, 6, false⟩)⟩,
    (rfl : (lookup 0x2E).map (fun r => r.make (lo a) (hi a)) = some (.rolAbs (join (hi a) (lo a)))).trans
      (congrArg (fun w => some (Instr.rolAbs w)) (join_hi_lo a))⟩
theorem TableRow.rolZpx (z : Byte) : TableRow.Statement (.rolZpx z) := 
  ⟨⟨_, _, (rfl : descriptor 0x36 = some ⟨.rol, .zpx, 6, false⟩)⟩,
    (rfl : (lookup 0x36).map (fun r => r.make z 0) = some (.rolZpx z))⟩
theorem TableRow.rolAbx (a : Word) : TableRow.Statement (.rolAbx a) := 
  ⟨⟨_, _, (rfl : descriptor 0x3E = some ⟨.rol, .abx, 7, false⟩)⟩,
    (rfl : (lookup 0x3E).map (fun r => r.make (lo a) (hi a)) = some (.rolAbx (join (hi a) (lo a)))).trans
      (congrArg (fun w => some (Instr.rolAbx w)) (join_hi_lo a))⟩
theorem TableRow.rorZp (z : Byte) : TableRow.Statement (.rorZp z) := 
  ⟨⟨_, _, (rfl : descriptor 0x66 = some ⟨.ror, .zp, 5, false⟩)⟩,
    (rfl : (lookup 0x66).map (fun r => r.make z 0) = some (.rorZp z))⟩
theorem TableRow.rorAcc : TableRow.Statement .rorAcc := 
  ⟨⟨_, _, (rfl : descriptor 0x6A = some ⟨.ror, .acc, 2, false⟩)⟩,
    (rfl : (lookup 0x6A).map (fun r => r.make 0 0) = some .rorAcc)⟩
theorem TableRow.rorAbs (a : Word) : TableRow.Statement (.rorAbs a) := 
  ⟨⟨_, _, (rfl : descriptor 0x6E = some ⟨.ror, .abs, 6, false⟩)⟩,
    (rfl : (lookup 0x6E).map (fun r => r.make (lo a) (hi a)) = some (.rorAbs (join (hi a) (lo a)))).trans
      (congrArg (fun w => some (Instr.rorAbs w)) (join_hi_lo a))⟩
theorem TableRow.rorZpx (z : Byte) : TableRow.Statement (.rorZpx z) := 
  ⟨⟨_, _, (rfl : descriptor 0x76 = some ⟨.ror, .zpx, 6, false⟩)⟩,
    (rfl : (lookup 0x76).map (fun r => r.make z 0) = some (.rorZpx z))⟩
theorem TableRow.rorAbx (a : Word) : TableRow.Statement (.rorAbx a) := 
  ⟨⟨_, _, (rfl : descriptor 0x7E = some ⟨.ror, .abx, 7, false⟩)⟩,
    (rfl : (lookup 0x7E).map (fun r => r.make (lo a) (hi a)) = some (.rorAbx (join (hi a) (lo a)))).trans
      (congrArg (fun w => some (Instr.rorAbx w)) (join_hi_lo a))⟩
theorem TableRow.rti : TableRow.Statement .rti := 
  ⟨⟨_, _, (rfl : descriptor 0x40 = some ⟨.rti, .imp, 6, false⟩)⟩,
    (rfl : (lookup 0x40).map (fun r => r.make 0 0) = some .rti)⟩
theorem TableRow.rts : TableRow.Statement .rts := 
  ⟨⟨_, _, (rfl : descriptor 0x60 = some ⟨.rts, .imp, 6, false⟩)⟩,
    (rfl : (lookup 0x60).map (fun r => r.make 0 0) = some .rts)⟩
theorem TableRow.sbcIzx (z : Byte) : TableRow.Statement (.sbcIzx z) := 
  ⟨⟨_, _, (rfl : descriptor 0xE1 = some ⟨.sbc, .izx, 6, false⟩)⟩,
    (rfl : (lookup 0xE1).map (fun r => r.make z 0) = some (.sbcIzx z))⟩
theorem TableRow.sbcZp (z : Byte) : TableRow.Statement (.sbcZp z) := 
  ⟨⟨_, _, (rfl : descriptor 0xE5 = some ⟨.sbc, .zp, 3, false⟩)⟩,
    (rfl : (lookup 0xE5).map (fun r => r.make z 0) = some (.sbcZp z))⟩
theorem TableRow.sbcImm (v : Byte) : TableRow.Statement (.sbcImm v) := 
  ⟨⟨_, _, (rfl : descriptor 0xE9 = some ⟨.sbc, .imm, 2, false⟩)⟩,
    (rfl : (lookup 0xE9).map (fun r => r.make v 0) = some (.sbcImm v))⟩
theorem TableRow.sbcAbs (a : Word) : TableRow.Statement (.sbcAbs a) := 
  ⟨⟨_, _, (rfl : descriptor 0xED = some ⟨.sbc, .abs, 4, false⟩)⟩,
    (rfl : (lookup 0xED).map (fun r => r.make (lo a) (hi a)) = some (.sbcAbs (join (hi a) (lo a)))).trans
      (congrArg (fun w => some (Instr.sbcAbs w)) (join_hi_lo a))⟩
theorem TableRow.sbcIzy (z : Byte) : TableRow.Statement (.sbcIzy z) := 
  ⟨⟨_, _, (rfl : descriptor 0xF1 = some ⟨.sbc, .izy, 5, true⟩)⟩,
    (rfl : (lookup 0xF1).map (fun r => r.make z 0) = some (.sbcIzy z))⟩
theorem TableRow.sbcZpx (z : Byte) : TableRow.Statement (.sbcZpx z) := 
  ⟨⟨_, _, (rfl : descriptor 0xF5 = some ⟨.sbc, .zpx, 4, false⟩)⟩,
    (rfl : (lookup 0xF5).map (fun r => r.make z 0) = some (.sbcZpx z))⟩
theorem TableRow.sbcAby (a : Word) : TableRow.Statement (.sbcAby a) := 
  ⟨⟨_, _, (rfl : descriptor 0xF9 = some ⟨.sbc, .aby, 4, true⟩)⟩,
    (rfl : (lookup 0xF9).map (fun r => r.make (lo a) (hi a)) = some (.sbcAby (join (hi a) (lo a)))).trans
      (congrArg (fun w => some (Instr.sbcAby w)) (join_hi_lo a))⟩
theorem TableRow.sbcAbx (a : Word) : TableRow.Statement (.sbcAbx a) := 
  ⟨⟨_, _, (rfl : descriptor 0xFD = some ⟨.sbc, .abx, 4, true⟩)⟩,
    (rfl : (lookup 0xFD).map (fun r => r.make (lo a) (hi a)) = some (.sbcAbx (join (hi a) (lo a)))).trans
      (congrArg (fun w => some (Instr.sbcAbx w)) (join_hi_lo a))⟩
theorem TableRow.sec : TableRow.Statement .sec := 
  ⟨⟨_, _, (rfl : descriptor 0x38 = some ⟨.sec, .imp, 2, false⟩)⟩,
    (rfl : (lookup 0x38).map (fun r => r.make 0 0) = some .sec)⟩
theorem TableRow.sed : TableRow.Statement .sed := 
  ⟨⟨_, _, (rfl : descriptor 0xF8 = some ⟨.sed, .imp, 2, false⟩)⟩,
    (rfl : (lookup 0xF8).map (fun r => r.make 0 0) = some .sed)⟩
theorem TableRow.sei : TableRow.Statement .sei := 
  ⟨⟨_, _, (rfl : descriptor 0x78 = some ⟨.sei, .imp, 2, false⟩)⟩,
    (rfl : (lookup 0x78).map (fun r => r.make 0 0) = some .sei)⟩
theorem TableRow.staIzx (z : Byte) : TableRow.Statement (.staIzx z) := 
  ⟨⟨_, _, (rfl : descriptor 0x81 = some ⟨.sta, .izx, 6, false⟩)⟩,
    (rfl : (lookup 0x81).map (fun r => r.make z 0) = some (.staIzx z))⟩
theorem TableRow.staZp (z : Byte) : TableRow.Statement (.staZp z) := 
  ⟨⟨_, _, (rfl : descriptor 0x85 = some ⟨.sta, .zp, 3, false⟩)⟩,
    (rfl : (lookup 0x85).map (fun r => r.make z 0) = some (.staZp z))⟩
theorem TableRow.staAbs (a : Word) : TableRow.Statement (.staAbs a) := 
  ⟨⟨_, _, (rfl : descriptor 0x8D = some ⟨.sta, .abs, 4, false⟩)⟩,
    (rfl : (lookup 0x8D).map (fun r => r.make (lo a) (hi a)) = some (.staAbs (join (hi a) (lo a)))).trans
      (congrArg (fun w => some (Instr.staAbs w)) (join_hi_lo a))⟩
theorem TableRow.staIzy (z : Byte) : TableRow.Statement (.staIzy z) := 
  ⟨⟨_, _, (rfl : descriptor 0x91 = some ⟨.sta, .izy, 6, false⟩)⟩,
    (rfl : (lookup 0x91).map (fun r => r.make z 0) = some (.staIzy z))⟩
theorem TableRow.staZpx (z : Byte) : TableRow.Statement (.staZpx z) := 
  ⟨⟨_, _, (rfl : descriptor 0x95 = some ⟨.sta, .zpx, 4, false⟩)⟩,
    (rfl : (lookup 0x95).map (fun r => r.make z 0) = some (.staZpx z))⟩
theorem TableRow.staAby (a : Word) : TableRow.Statement (.staAby a) := 
  ⟨⟨_, _, (rfl : descriptor 0x99 = some ⟨.sta, .aby, 5, false⟩)⟩,
    (rfl : (lookup 0x99).map (fun r => r.make (lo a) (hi a)) = some (.staAby (join (hi a) (lo a)))).trans
      (congrArg (fun w => some (Instr.staAby w)) (join_hi_lo a))⟩
theorem TableRow.staAbx (a : Word) : TableRow.Statement (.staAbx a) := 
  ⟨⟨_, _, (rfl : descriptor 0x9D = some ⟨.sta, .abx, 5, false⟩)⟩,
    (rfl : (lookup 0x9D).map (fun r => r.make (lo a) (hi a)) = some (.staAbx (join (hi a) (lo a)))).trans
      (congrArg (fun w => some (Instr.staAbx w)) (join_hi_lo a))⟩
theorem TableRow.stxZp (z : Byte) : TableRow.Statement (.stxZp z) := 
  ⟨⟨_, _, (rfl : descriptor 0x86 = some ⟨.stx, .zp, 3, false⟩)⟩,
    (rfl : (lookup 0x86).map (fun r => r.make z 0) = some (.stxZp z))⟩
theorem TableRow.stxAbs (a : Word) : TableRow.Statement (.stxAbs a) := 
  ⟨⟨_, _, (rfl : descriptor 0x8E = some ⟨.stx, .abs, 4, false⟩)⟩,
    (rfl : (lookup 0x8E).map (fun r => r.make (lo a) (hi a)) = some (.stxAbs (join (hi a) (lo a)))).trans
      (congrArg (fun w => some (Instr.stxAbs w)) (join_hi_lo a))⟩
theorem TableRow.stxZpy (z : Byte) : TableRow.Statement (.stxZpy z) := 
  ⟨⟨_, _, (rfl : descriptor 0x96 = some ⟨.stx, .zpy, 4, false⟩)⟩,
    (rfl : (lookup 0x96).map (fun r => r.make z 0) = some (.stxZpy z))⟩
theorem TableRow.styZp (z : Byte) : TableRow.Statement (.styZp z) := 
  ⟨⟨_, _, (rfl : descriptor 0x84 = some ⟨.sty, .zp, 3, false⟩)⟩,
    (rfl : (lookup 0x84).map (fun r => r.make z 0) = some (.styZp z))⟩
theorem TableRow.styAbs (a : Word) : TableRow.Statement (.styAbs a) := 
  ⟨⟨_, _, (rfl : descriptor 0x8C = some ⟨.sty, .abs, 4, false⟩)⟩,
    (rfl : (lookup 0x8C).map (fun r => r.make (lo a) (hi a)) = some (.styAbs (join (hi a) (lo a)))).trans
      (congrArg (fun w => some (Instr.styAbs w)) (join_hi_lo a))⟩
theorem TableRow.styZpx (z : Byte) : TableRow.Statement (.styZpx z) := 
  ⟨⟨_, _, (rfl : descriptor 0x94 = some ⟨.sty, .zpx, 4, false⟩)⟩,
    (rfl : (lookup 0x94).map (fun r => r.make z 0) = some (.styZpx z))⟩
theorem TableRow.tax : TableRow.Statement .tax := 
  ⟨⟨_, _, (rfl : descriptor 0xAA = some ⟨.tax, .imp, 2, false⟩)⟩,
    (rfl : (lookup 0xAA).map (fun r => r.make 0 0) = some .tax)⟩
theorem TableRow.tay : TableRow.Statement .tay := 
  ⟨⟨_, _, (rfl : descriptor 0xA8 = some ⟨.tay, .imp, 2, false⟩)⟩,
    (rfl : (lookup 0xA8).map (fun r => r.make 0 0) = some .tay)⟩
theorem TableRow.tsx : TableRow.Statement .tsx := 
  ⟨⟨_, _, (rfl : descriptor 0xBA = some ⟨.tsx, .imp, 2, false⟩)⟩,
    (rfl : (lookup 0xBA).map (fun r => r.make 0 0) = some .tsx)⟩
theorem TableRow.txa : TableRow.Statement .txa := 
  ⟨⟨_, _, (rfl : descriptor 0x8A = some ⟨.txa, .imp, 2, false⟩)⟩,
    (rfl : (lookup 0x8A).map (fun r => r.make 0 0) = some .txa)⟩
theorem TableRow.txs : TableRow.Statement .txs := 
  ⟨⟨_, _, (rfl : descriptor 0x9A = some ⟨.txs, .imp, 2, false⟩)⟩,
    (rfl : (lookup 0x9A).map (fun r => r.make 0 0) = some .txs)⟩
theorem TableRow.tya : TableRow.Statement .tya := 
  ⟨⟨_, _, (rfl : descriptor 0x98 = some ⟨.tya, .imp, 2, false⟩)⟩,
    (rfl : (lookup 0x98).map (fun r => r.make 0 0) = some .tya)⟩

end Sys2Proof.Laws
end

