-- ==== Sys2Proof/Laws/Decode.lean ====
section
/-! SUPPORT. The dispatch table and the decoder: what every row makes, and that decoding and encoding agree with the table. -/

namespace Sys2Proof.Laws

/-- The per-instruction facts of Laws/PerInstr.lean, of every instruction. -/
theorem tableRow_all (i : Instr) : TableRow.Statement i :=
  match i with
  | .adcIzx z => TableRow.adcIzx z
  | .adcZp z => TableRow.adcZp z
  | .adcImm v => TableRow.adcImm v
  | .adcAbs a => TableRow.adcAbs a
  | .adcIzy z => TableRow.adcIzy z
  | .adcZpx z => TableRow.adcZpx z
  | .adcAby a => TableRow.adcAby a
  | .adcAbx a => TableRow.adcAbx a
  | .andIzx z => TableRow.andIzx z
  | .andZp z => TableRow.andZp z
  | .andImm v => TableRow.andImm v
  | .andAbs a => TableRow.andAbs a
  | .andIzy z => TableRow.andIzy z
  | .andZpx z => TableRow.andZpx z
  | .andAby a => TableRow.andAby a
  | .andAbx a => TableRow.andAbx a
  | .aslZp z => TableRow.aslZp z
  | .aslAcc => TableRow.aslAcc
  | .aslAbs a => TableRow.aslAbs a
  | .aslZpx z => TableRow.aslZpx z
  | .aslAbx a => TableRow.aslAbx a
  | .bcc o => TableRow.bcc o
  | .bcs o => TableRow.bcs o
  | .beq o => TableRow.beq o
  | .bitZp z => TableRow.bitZp z
  | .bitAbs a => TableRow.bitAbs a
  | .bmi o => TableRow.bmi o
  | .bne o => TableRow.bne o
  | .bpl o => TableRow.bpl o
  | .brk => TableRow.brk
  | .bvc o => TableRow.bvc o
  | .bvs o => TableRow.bvs o
  | .clc => TableRow.clc
  | .cld => TableRow.cld
  | .cli => TableRow.cli
  | .clv => TableRow.clv
  | .cmpIzx z => TableRow.cmpIzx z
  | .cmpZp z => TableRow.cmpZp z
  | .cmpImm v => TableRow.cmpImm v
  | .cmpAbs a => TableRow.cmpAbs a
  | .cmpIzy z => TableRow.cmpIzy z
  | .cmpZpx z => TableRow.cmpZpx z
  | .cmpAby a => TableRow.cmpAby a
  | .cmpAbx a => TableRow.cmpAbx a
  | .cpxImm v => TableRow.cpxImm v
  | .cpxZp z => TableRow.cpxZp z
  | .cpxAbs a => TableRow.cpxAbs a
  | .cpyImm v => TableRow.cpyImm v
  | .cpyZp z => TableRow.cpyZp z
  | .cpyAbs a => TableRow.cpyAbs a
  | .decZp z => TableRow.decZp z
  | .decAbs a => TableRow.decAbs a
  | .decZpx z => TableRow.decZpx z
  | .decAbx a => TableRow.decAbx a
  | .dex => TableRow.dex
  | .dey => TableRow.dey
  | .eorIzx z => TableRow.eorIzx z
  | .eorZp z => TableRow.eorZp z
  | .eorImm v => TableRow.eorImm v
  | .eorAbs a => TableRow.eorAbs a
  | .eorIzy z => TableRow.eorIzy z
  | .eorZpx z => TableRow.eorZpx z
  | .eorAby a => TableRow.eorAby a
  | .eorAbx a => TableRow.eorAbx a
  | .incZp z => TableRow.incZp z
  | .incAbs a => TableRow.incAbs a
  | .incZpx z => TableRow.incZpx z
  | .incAbx a => TableRow.incAbx a
  | .inx => TableRow.inx
  | .iny => TableRow.iny
  | .jmpAbs a => TableRow.jmpAbs a
  | .jmpInd a => TableRow.jmpInd a
  | .jsr a => TableRow.jsr a
  | .ldaIzx z => TableRow.ldaIzx z
  | .ldaZp z => TableRow.ldaZp z
  | .ldaImm v => TableRow.ldaImm v
  | .ldaAbs a => TableRow.ldaAbs a
  | .ldaIzy z => TableRow.ldaIzy z
  | .ldaZpx z => TableRow.ldaZpx z
  | .ldaAby a => TableRow.ldaAby a
  | .ldaAbx a => TableRow.ldaAbx a
  | .ldxImm v => TableRow.ldxImm v
  | .ldxZp z => TableRow.ldxZp z
  | .ldxAbs a => TableRow.ldxAbs a
  | .ldxZpy z => TableRow.ldxZpy z
  | .ldxAby a => TableRow.ldxAby a
  | .ldyImm v => TableRow.ldyImm v
  | .ldyZp z => TableRow.ldyZp z
  | .ldyAbs a => TableRow.ldyAbs a
  | .ldyZpx z => TableRow.ldyZpx z
  | .ldyAbx a => TableRow.ldyAbx a
  | .lsrZp z => TableRow.lsrZp z
  | .lsrAcc => TableRow.lsrAcc
  | .lsrAbs a => TableRow.lsrAbs a
  | .lsrZpx z => TableRow.lsrZpx z
  | .lsrAbx a => TableRow.lsrAbx a
  | .nop => TableRow.nop
  | .oraIzx z => TableRow.oraIzx z
  | .oraZp z => TableRow.oraZp z
  | .oraImm v => TableRow.oraImm v
  | .oraAbs a => TableRow.oraAbs a
  | .oraIzy z => TableRow.oraIzy z
  | .oraZpx z => TableRow.oraZpx z
  | .oraAby a => TableRow.oraAby a
  | .oraAbx a => TableRow.oraAbx a
  | .pha => TableRow.pha
  | .php => TableRow.php
  | .pla => TableRow.pla
  | .plp => TableRow.plp
  | .rolZp z => TableRow.rolZp z
  | .rolAcc => TableRow.rolAcc
  | .rolAbs a => TableRow.rolAbs a
  | .rolZpx z => TableRow.rolZpx z
  | .rolAbx a => TableRow.rolAbx a
  | .rorZp z => TableRow.rorZp z
  | .rorAcc => TableRow.rorAcc
  | .rorAbs a => TableRow.rorAbs a
  | .rorZpx z => TableRow.rorZpx z
  | .rorAbx a => TableRow.rorAbx a
  | .rti => TableRow.rti
  | .rts => TableRow.rts
  | .sbcIzx z => TableRow.sbcIzx z
  | .sbcZp z => TableRow.sbcZp z
  | .sbcImm v => TableRow.sbcImm v
  | .sbcAbs a => TableRow.sbcAbs a
  | .sbcIzy z => TableRow.sbcIzy z
  | .sbcZpx z => TableRow.sbcZpx z
  | .sbcAby a => TableRow.sbcAby a
  | .sbcAbx a => TableRow.sbcAbx a
  | .sec => TableRow.sec
  | .sed => TableRow.sed
  | .sei => TableRow.sei
  | .staIzx z => TableRow.staIzx z
  | .staZp z => TableRow.staZp z
  | .staAbs a => TableRow.staAbs a
  | .staIzy z => TableRow.staIzy z
  | .staZpx z => TableRow.staZpx z
  | .staAby a => TableRow.staAby a
  | .staAbx a => TableRow.staAbx a
  | .stxZp z => TableRow.stxZp z
  | .stxAbs a => TableRow.stxAbs a
  | .stxZpy z => TableRow.stxZpy z
  | .styZp z => TableRow.styZp z
  | .styAbs a => TableRow.styAbs a
  | .styZpx z => TableRow.styZpx z
  | .tax => TableRow.tax
  | .tay => TableRow.tay
  | .tsx => TableRow.tsx
  | .txa => TableRow.txa
  | .txs => TableRow.txs
  | .tya => TableRow.tya

/-- Every instruction is well formed (WellFormed.lean). -/
theorem instr_wf (i : Instr) : i.wf = true := by cases i <;> rfl

/-- What a row promises of the instruction it makes from two bytes: the row's operation and mode, the row's opcode, and as
operand bytes the first `oplen` of the two (R70 to R74). -/
def RowMakes (r : TableRow) : Prop :=
  ∀ b1 b2, (r.make b1 b2).op = r.desc.op ∧ (r.make b1 b2).operand.mode = r.desc.mode ∧
    (r.make b1 b2).opcode = r.opcode ∧ (r.make b1 b2).operand.bytes = [b1, b2].take r.desc.mode.oplen

/-- A 16-bit operand gives its two bytes back, low byte first. -/
theorem join_bytes (b1 b2 : Byte) : [lo (join b2 b1), hi (join b2 b1)] = [b1, b2] := by
  rw [lo_join, hi_join]

theorem tableRow0_makes : ∀ r ∈ tableRow0, RowMakes r := by
  repeat first
    | refine List.forall_mem_cons.2 ⟨fun _ _ => ⟨rfl, rfl, rfl, rfl⟩, ?_⟩
    | refine List.forall_mem_cons.2 ⟨fun b1 b2 => ⟨rfl, rfl, rfl, join_bytes b1 b2⟩, ?_⟩
  exact List.forall_mem_nil _
theorem tableRow1_makes : ∀ r ∈ tableRow1, RowMakes r := by
  repeat first
    | refine List.forall_mem_cons.2 ⟨fun _ _ => ⟨rfl, rfl, rfl, rfl⟩, ?_⟩
    | refine List.forall_mem_cons.2 ⟨fun b1 b2 => ⟨rfl, rfl, rfl, join_bytes b1 b2⟩, ?_⟩
  exact List.forall_mem_nil _
theorem tableRow2_makes : ∀ r ∈ tableRow2, RowMakes r := by
  repeat first
    | refine List.forall_mem_cons.2 ⟨fun _ _ => ⟨rfl, rfl, rfl, rfl⟩, ?_⟩
    | refine List.forall_mem_cons.2 ⟨fun b1 b2 => ⟨rfl, rfl, rfl, join_bytes b1 b2⟩, ?_⟩
  exact List.forall_mem_nil _
theorem tableRow3_makes : ∀ r ∈ tableRow3, RowMakes r := by
  repeat first
    | refine List.forall_mem_cons.2 ⟨fun _ _ => ⟨rfl, rfl, rfl, rfl⟩, ?_⟩
    | refine List.forall_mem_cons.2 ⟨fun b1 b2 => ⟨rfl, rfl, rfl, join_bytes b1 b2⟩, ?_⟩
  exact List.forall_mem_nil _
theorem tableRow4_makes : ∀ r ∈ tableRow4, RowMakes r := by
  repeat first
    | refine List.forall_mem_cons.2 ⟨fun _ _ => ⟨rfl, rfl, rfl, rfl⟩, ?_⟩
    | refine List.forall_mem_cons.2 ⟨fun b1 b2 => ⟨rfl, rfl, rfl, join_bytes b1 b2⟩, ?_⟩
  exact List.forall_mem_nil _
theorem tableRow5_makes : ∀ r ∈ tableRow5, RowMakes r := by
  repeat first
    | refine List.forall_mem_cons.2 ⟨fun _ _ => ⟨rfl, rfl, rfl, rfl⟩, ?_⟩
    | refine List.forall_mem_cons.2 ⟨fun b1 b2 => ⟨rfl, rfl, rfl, join_bytes b1 b2⟩, ?_⟩
  exact List.forall_mem_nil _
theorem tableRow6_makes : ∀ r ∈ tableRow6, RowMakes r := by
  repeat first
    | refine List.forall_mem_cons.2 ⟨fun _ _ => ⟨rfl, rfl, rfl, rfl⟩, ?_⟩
    | refine List.forall_mem_cons.2 ⟨fun b1 b2 => ⟨rfl, rfl, rfl, join_bytes b1 b2⟩, ?_⟩
  exact List.forall_mem_nil _
theorem tableRow7_makes : ∀ r ∈ tableRow7, RowMakes r := by
  repeat first
    | refine List.forall_mem_cons.2 ⟨fun _ _ => ⟨rfl, rfl, rfl, rfl⟩, ?_⟩
    | refine List.forall_mem_cons.2 ⟨fun b1 b2 => ⟨rfl, rfl, rfl, join_bytes b1 b2⟩, ?_⟩
  exact List.forall_mem_nil _
theorem tableRow8_makes : ∀ r ∈ tableRow8, RowMakes r := by
  repeat first
    | refine List.forall_mem_cons.2 ⟨fun _ _ => ⟨rfl, rfl, rfl, rfl⟩, ?_⟩
    | refine List.forall_mem_cons.2 ⟨fun b1 b2 => ⟨rfl, rfl, rfl, join_bytes b1 b2⟩, ?_⟩
  exact List.forall_mem_nil _
theorem tableRow9_makes : ∀ r ∈ tableRow9, RowMakes r := by
  repeat first
    | refine List.forall_mem_cons.2 ⟨fun _ _ => ⟨rfl, rfl, rfl, rfl⟩, ?_⟩
    | refine List.forall_mem_cons.2 ⟨fun b1 b2 => ⟨rfl, rfl, rfl, join_bytes b1 b2⟩, ?_⟩
  exact List.forall_mem_nil _
theorem tableRowA_makes : ∀ r ∈ tableRowA, RowMakes r := by
  repeat first
    | refine List.forall_mem_cons.2 ⟨fun _ _ => ⟨rfl, rfl, rfl, rfl⟩, ?_⟩
    | refine List.forall_mem_cons.2 ⟨fun b1 b2 => ⟨rfl, rfl, rfl, join_bytes b1 b2⟩, ?_⟩
  exact List.forall_mem_nil _
theorem tableRowB_makes : ∀ r ∈ tableRowB, RowMakes r := by
  repeat first
    | refine List.forall_mem_cons.2 ⟨fun _ _ => ⟨rfl, rfl, rfl, rfl⟩, ?_⟩
    | refine List.forall_mem_cons.2 ⟨fun b1 b2 => ⟨rfl, rfl, rfl, join_bytes b1 b2⟩, ?_⟩
  exact List.forall_mem_nil _
theorem tableRowC_makes : ∀ r ∈ tableRowC, RowMakes r := by
  repeat first
    | refine List.forall_mem_cons.2 ⟨fun _ _ => ⟨rfl, rfl, rfl, rfl⟩, ?_⟩
    | refine List.forall_mem_cons.2 ⟨fun b1 b2 => ⟨rfl, rfl, rfl, join_bytes b1 b2⟩, ?_⟩
  exact List.forall_mem_nil _
theorem tableRowD_makes : ∀ r ∈ tableRowD, RowMakes r := by
  repeat first
    | refine List.forall_mem_cons.2 ⟨fun _ _ => ⟨rfl, rfl, rfl, rfl⟩, ?_⟩
    | refine List.forall_mem_cons.2 ⟨fun b1 b2 => ⟨rfl, rfl, rfl, join_bytes b1 b2⟩, ?_⟩
  exact List.forall_mem_nil _
theorem tableRowE_makes : ∀ r ∈ tableRowE, RowMakes r := by
  repeat first
    | refine List.forall_mem_cons.2 ⟨fun _ _ => ⟨rfl, rfl, rfl, rfl⟩, ?_⟩
    | refine List.forall_mem_cons.2 ⟨fun b1 b2 => ⟨rfl, rfl, rfl, join_bytes b1 b2⟩, ?_⟩
  exact List.forall_mem_nil _
theorem tableRowF_makes : ∀ r ∈ tableRowF, RowMakes r := by
  repeat first
    | refine List.forall_mem_cons.2 ⟨fun _ _ => ⟨rfl, rfl, rfl, rfl⟩, ?_⟩
    | refine List.forall_mem_cons.2 ⟨fun b1 b2 => ⟨rfl, rfl, rfl, join_bytes b1 b2⟩, ?_⟩
  exact List.forall_mem_nil _

theorem tableRows_makes (h : Nat) : ∀ r ∈ tableRows h, RowMakes r := by
  unfold tableRows
  split
  · exact tableRow0_makes
  · exact tableRow1_makes
  · exact tableRow2_makes
  · exact tableRow3_makes
  · exact tableRow4_makes
  · exact tableRow5_makes
  · exact tableRow6_makes
  · exact tableRow7_makes
  · exact tableRow8_makes
  · exact tableRow9_makes
  · exact tableRowA_makes
  · exact tableRowB_makes
  · exact tableRowC_makes
  · exact tableRowD_makes
  · exact tableRowE_makes
  · exact tableRowF_makes

/-- A row that the table gives for an opcode byte is a row of the table, with that opcode. -/
theorem lookup_some {op : Byte} {r : TableRow} (h : lookup op = some r) : r.opcode = op ∧ RowMakes r := by
  unfold lookup at h
  exact ⟨by simpa using List.find?_some h, tableRows_makes _ r (List.mem_of_find?_eq_some h)⟩

/-- What holds of the opcode, operation and mode of every row of the table holds of those of every instruction: a fact about
all opcodes of an operation is one `decide` over the 151 rows. -/
theorem instr_of_rows {P : Byte → Op → Mode → Prop}
    (h : ∀ n < 16, ∀ r ∈ tableRows n, P r.opcode r.desc.op r.desc.mode) (i : Instr) : P i.opcode i.op i.operand.mode := by
  obtain ⟨⟨c, e, hd⟩, -⟩ := tableRow_all i
  simp only [descriptor, Option.map_eq_some_iff] at hd
  obtain ⟨r, hr, hd⟩ := hd
  have ho := (lookup_some hr).1
  have := h _ (by have := i.opcode.isLt; omega) r (List.mem_of_find?_eq_some hr)
  rwa [ho, hd] at this

/-- Every row of the table is well formed (R81, R106, R242). -/
theorem descriptor_wf {op : Byte} {d : Descriptor} (h : descriptor op = some d) : d.wf = true := by
  have hw : ∀ h < 16, ∀ r ∈ tableRows h, r.desc.wf = true := by decide
  unfold descriptor lookup at h
  simp only [Option.map_eq_some_iff] at h
  obtain ⟨r, hr, rfl⟩ := h
  exact hw _ (by have := op.isLt; omega) r (List.mem_of_find?_eq_some hr)

/-- A row with the extra flag has at most 5 base cycles (R74, R81). -/
theorem descriptor_extra {op : Byte} {d : Descriptor} (h : descriptor op = some d) (hx : d.extra = true) :
    d.cycles ≤ 5 := by
  have hw : ∀ h < 16, ∀ r ∈ tableRows h, r.desc.extra = true → r.desc.cycles ≤ 5 := by decide
  unfold descriptor lookup at h
  simp only [Option.map_eq_some_iff] at h
  obtain ⟨r, hr, rfl⟩ := h
  exact hw _ (by have := op.isLt; omega) r (List.mem_of_find?_eq_some hr) hx

/-- A row that needs `oplen` bytes decodes whenever it has them (R76). -/
theorem decode_row {op : Byte} {r : TableRow} (h : lookup op = some r) (b1 b2 : Byte) (rest : List Byte) :
    (r.desc.mode.oplen = 0 → decode (op :: rest) = .ok (r.make 0 0, rest)) ∧
    (r.desc.mode.oplen = 1 → decode (op :: b1 :: rest) = .ok (r.make b1 0, rest)) ∧
    (r.desc.mode.oplen = 2 → decode (op :: b1 :: b2 :: rest) = .ok (r.make b1 b2, rest)) := by
  refine ⟨fun e => ?_, fun e => ?_, fun e => ?_⟩ <;> simp [decode, h, e]

theorem oplen_le (m : Mode) : m.oplen = 0 ∨ m.oplen = 1 ∨ m.oplen = 2 := by
  cases m <;> simp [Mode.oplen]

/-- Bytes as many as the opcode's mode asks for decode, and no byte is left over: a fetch never meets the decoder's other
answers (R76, R112). -/
theorem decode_fetched {op : Byte} {d : Descriptor} (h : descriptor op = some d) (bs : List Byte)
    (hlen : bs.length = d.mode.oplen) : ∃ i, decode (op :: bs) = .ok (i, []) ∧ i.op = d.op ∧ i.operand.mode = d.mode ∧
      i.opcode = op := by
  unfold descriptor at h
  simp only [Option.map_eq_some_iff] at h
  obtain ⟨r, hr, rfl⟩ := h
  obtain ⟨ho, hm⟩ := lookup_some hr
  rcases oplen_le r.desc.mode with e | e | e <;> rw [e] at hlen
  · obtain rfl : bs = [] := List.eq_nil_of_length_eq_zero hlen
    exact ⟨_, (decode_row hr 0 0 []).1 e, (hm 0 0).1, (hm 0 0).2.1, (hm 0 0).2.2.1.trans ho⟩
  · obtain ⟨b1, rfl⟩ := List.length_eq_one_iff.mp hlen
    exact ⟨_, (decode_row hr b1 0 []).2.1 e, (hm b1 0).1, (hm b1 0).2.1, (hm b1 0).2.2.1.trans ho⟩
  · obtain ⟨b1, b2, rfl⟩ := List.length_eq_two.mp hlen
    exact ⟨_, (decode_row hr b1 b2 []).2.2 e, (hm b1 b2).1, (hm b1 b2).2.1, (hm b1 b2).2.2.1.trans ho⟩

end Sys2Proof.Laws
end

