-- ==== Sys2Proof/Laws/Flags.lean ====
section
/-! SUPPORT. The flag logic: a flag written is read back, and the other bits of P stay (10_state.md R20). -/

namespace Sys2Proof.Machine

theorem flagOf_mask (f g : Flag) : flagOf g.mask f = decide (f = g) := by
  cases f <;> cases g <;> rfl

theorem Flag.bit_lt (f : Flag) : f.bit < 8 := by cases f <;> decide

theorem flagOf_putFlag (p : Byte) (f g : Flag) (b : Bool) :
    flagOf (putFlag p g b) f = if f = g then b else flagOf p f := by
  have hm := flagOf_mask f g
  have hl := f.bit_lt
  unfold flagOf at *
  cases b <;> by_cases h : f = g <;> simp [putFlag, h, hl] <;> simp_all

@[simp] theorem flagOf_putFlag_same (p : Byte) (f : Flag) (b : Bool) : flagOf (putFlag p f b) f = b := by
  simp [flagOf_putFlag]

theorem flagOf_putFlag_ne {f g : Flag} (p : Byte) (b : Bool) (h : f ≠ g) :
    flagOf (putFlag p g b) f = flagOf p f := by
  simp [flagOf_putFlag, h]

theorem flagOf_putZN (p v : Byte) (f : Flag) :
    flagOf (putZN p v) f = if f = .n then v.getLsbD 7 else if f = .z then v == 0x00 else flagOf p f := by
  simp [putZN, flagOf_putFlag]

theorem setFlag_flag (s : State) (f g : Flag) (b : Bool) :
    (s.setFlag g b).flag f = if f = g then b else s.flag f := flagOf_putFlag s.p f g b

theorem setZN_flag (s : State) (v : Byte) (f : Flag) :
    (s.setZN v).flag f = if f = .n then v.getLsbD 7 else if f = .z then v == 0x00 else s.flag f :=
  flagOf_putZN s.p v f

theorem setP_flag (s : State) (v : Byte) (f : Flag) : (s.setP v).flag f = flagOf v f := rfl

theorem bit0_iff (v : Byte) : v.getLsbD 0 = true ↔ v.toNat % 2 = 1 := by
  rw [BitVec.getLsbD, Nat.testBit_eq_decide_div_mod_eq, decide_eq_true_eq]
  omega

theorem bit6_iff (v : Byte) : v.getLsbD 6 = true ↔ 0x40 ≤ v.toNat % 0x80 := by
  rw [BitVec.getLsbD, Nat.testBit_eq_decide_div_mod_eq, decide_eq_true_eq]
  omega

theorem bit7_iff (v : Byte) : v.getLsbD 7 = true ↔ 0x80 ≤ v.toNat := by
  have := v.isLt
  rw [BitVec.getLsbD, Nat.testBit_eq_decide_div_mod_eq, decide_eq_true_eq]
  omega

/-! The shifted values of R164 as numbers; C is bit 7 or bit 0 of the old value. -/

theorem bitNat_lt (c : Bool) : bitNat c < 2 := by cases c <;> decide

theorem asl_toNat (v : Byte) (c : Bool) : (shiftByte .asl v c).1.toNat = v.toNat * 2 % 256 := by
  rw [shiftByte, BitVec.toNat_shiftLeft, Nat.shiftLeft_eq]

theorem lsr_toNat (v : Byte) (c : Bool) : (shiftByte .lsr v c).1.toNat = v.toNat / 2 := by
  rw [shiftByte, BitVec.toNat_ushiftRight, Nat.shiftRight_eq_div_pow]

theorem rol_toNat (v : Byte) (c : Bool) : (shiftByte .rol v c).1.toNat = (v.toNat * 2 + bitNat c) % 256 := by
  have hc := bitNat_lt c
  have h := Nat.shiftLeft_add_eq_or_of_lt (i := 1) (b := bitNat c) (by omega) (v.toNat % 128)
  have hs : (v <<< 1).toNat = (v.toNat % 128) <<< 1 := by
    rw [BitVec.toNat_shiftLeft, Nat.shiftLeft_eq, Nat.shiftLeft_eq]
    omega
  simp only [shiftByte, BitVec.toNat_or, hs, BitVec.toNat_ofNat]
  rw [Nat.mod_eq_of_lt (by omega : bitNat c < 2 ^ 8), ← h, Nat.shiftLeft_eq]
  omega

theorem ror_toNat (v : Byte) (c : Bool) : (shiftByte .ror v c).1.toNat = v.toNat / 2 + 0x80 * bitNat c := by
  have hv := v.isLt
  have hc := bitNat_lt c
  have h := Nat.shiftLeft_add_eq_or_of_lt (i := 7) (b := v.toNat / 2) (by omega) (bitNat c)
  have hs : (BitVec.ofNat 8 (bitNat c) <<< 7).toNat = bitNat c <<< 7 := by
    rw [BitVec.toNat_shiftLeft, BitVec.toNat_ofNat, Nat.shiftLeft_eq, Nat.shiftLeft_eq]
    omega
  have hr : (v >>> 1).toNat = v.toNat / 2 := by rw [BitVec.toNat_ushiftRight, Nat.shiftRight_eq_div_pow]
  simp only [shiftByte, BitVec.toNat_or, hs, hr]
  rw [Nat.or_comm, ← h, Nat.shiftLeft_eq]
  omega

/-- Two status bytes with the same eight flags are the same byte. -/
theorem eq_of_flags {p q : Byte} (h : ∀ f, flagOf p f = flagOf q f) : p = q := by
  apply BitVec.eq_of_getLsbD_eq
  intro i hi
  have : i = 0 ∨ i = 1 ∨ i = 2 ∨ i = 3 ∨ i = 4 ∨ i = 5 ∨ i = 6 ∨ i = 7 := by omega
  rcases this with rfl | rfl | rfl | rfl | rfl | rfl | rfl | rfl
  · exact h .c
  · exact h .z
  · exact h .i
  · exact h .d
  · exact h .b4
  · exact h .b5
  · exact h .v
  · exact h .n

end Sys2Proof.Machine
end

