-- ==== Sys2Proof/Laws/Ops.lean ====
section
/-! SUPPORT. The 16-bit reads, the stack, taking an interrupt and returning from one: everything each can do. -/

namespace Sys2Proof.Machine

/-! ## Two one-byte reads -/

/-- Everything two reads can change. -/
theorem readPair_eq (al ah : Word) (s : State) : ∃ n,
    (readPair al ah s).2 =
      { s with
        accesses := s.accesses ++ [.read al (lo (readPair al ah s).1), .read ah (hi (readPair al ah s).1)]
        deviceCount := n } := by
  simp only [readPair, hi_join, lo_join, memRead, State.record, List.append_assoc, List.cons_append, List.nil_append]
  exact ⟨_, rfl⟩

@[simp] theorem readPair_a (al ah : Word) (s : State) : (readPair al ah s).2.a = s.a := rfl
@[simp] theorem readPair_x (al ah : Word) (s : State) : (readPair al ah s).2.x = s.x := rfl
@[simp] theorem readPair_y (al ah : Word) (s : State) : (readPair al ah s).2.y = s.y := rfl
@[simp] theorem readPair_sp (al ah : Word) (s : State) : (readPair al ah s).2.sp = s.sp := rfl
@[simp] theorem readPair_pc (al ah : Word) (s : State) : (readPair al ah s).2.pc = s.pc := rfl
@[simp] theorem readPair_p (al ah : Word) (s : State) : (readPair al ah s).2.p = s.p := rfl
@[simp] theorem readPair_clk (al ah : Word) (s : State) : (readPair al ah s).2.clk = s.clk := rfl
@[simp] theorem readPair_nmiPending (al ah : Word) (s : State) : (readPair al ah s).2.nmiPending = s.nmiPending := rfl
@[simp] theorem readPair_fault (al ah : Word) (s : State) : (readPair al ah s).2.fault = s.fault := rfl
@[simp] theorem readPair_irqLine (al ah : Word) (s : State) : (readPair al ah s).2.irqLine = s.irqLine := rfl
@[simp] theorem readPair_mem (al ah : Word) (s : State) : (readPair al ah s).2.mem = s.mem := rfl
@[simp] theorem readPair_params (al ah : Word) (s : State) : (readPair al ah s).2.params = s.params := rfl
@[simp] theorem readPair_flag (al ah : Word) (s : State) (f : Flag) : (readPair al ah s).2.flag f = s.flag f := rfl
@[simp] theorem readPair_peek (al ah : Word) (s : State) (b : Word) : (readPair al ah s).2.peek b = s.peek b := rfl

@[simp] theorem readPair_accesses (al ah : Word) (s : State) : (readPair al ah s).2.accesses =
    s.accesses ++ [.read al (lo (readPair al ah s).1), .read ah (hi (readPair al ah s).1)] := by
  simp [readPair]

/-- Two reads of readable bytes. -/
theorem readPair_of_peek {al ah : Word} {s : State} {l h : Byte} (hl : s.peek al = some l) (hh : s.peek ah = some h) :
    readPair al ah s = (join h l, { s with accesses := s.accesses ++ [.read al l, .read ah h] }) := by
  have h2 : ({ s with accesses := s.accesses ++ [.read al l] } : State).peek ah = some h := hh
  simp only [readPair, memRead_of_peek hl, memRead_of_peek h2, List.append_assoc, List.cons_append, List.nil_append]

/-- What two reads answer depends on what the bus answers and on nothing else. -/
theorem readPair_congr {al ah : Word} {s t : State} (hp : t.params = s.params) (hd : t.deviceCount = s.deviceCount)
    (hl : t.busByte al = s.busByte al)
    (hh : ∀ n, ({ t with deviceCount := n } : State).busByte ah = ({ s with deviceCount := n } : State).busByte ah) :
    (readPair al ah t).1 = (readPair al ah s).1 := by
  have h := hh (s.deviceCount + (if (region s.params al).isDevice then 1 else 0))
  simp only [readPair, memRead, hl]
  congr 1
  simpa only [State.busByte, State.record, hp, hd] using h

/-! ## The stack -/

@[simp] theorem push_a (v : Byte) (s : State) : (push v s).a = s.a := rfl
@[simp] theorem push_x (v : Byte) (s : State) : (push v s).x = s.x := rfl
@[simp] theorem push_y (v : Byte) (s : State) : (push v s).y = s.y := rfl
@[simp] theorem push_sp (v : Byte) (s : State) : (push v s).sp = s.sp - 1 := rfl
@[simp] theorem push_pc (v : Byte) (s : State) : (push v s).pc = s.pc := rfl
@[simp] theorem push_p (v : Byte) (s : State) : (push v s).p = s.p := rfl
@[simp] theorem push_clk (v : Byte) (s : State) : (push v s).clk = s.clk := rfl
@[simp] theorem push_nmiPending (v : Byte) (s : State) : (push v s).nmiPending = s.nmiPending := rfl
@[simp] theorem push_fault (v : Byte) (s : State) : (push v s).fault = s.fault := rfl
@[simp] theorem push_irqLine (v : Byte) (s : State) : (push v s).irqLine = s.irqLine := rfl
@[simp] theorem push_params (v : Byte) (s : State) : (push v s).params = s.params := rfl
@[simp] theorem push_flag (v : Byte) (s : State) (f : Flag) : (push v s).flag f = s.flag f := rfl
@[simp] theorem push_accesses (v : Byte) (s : State) :
    (push v s).accesses = s.accesses ++ [.write (stackAddr s.sp) v] := rfl

@[simp] theorem push_deviceCount (v : Byte) (s : State) : (push v s).deviceCount = s.deviceCount := by
  simp [push, memWrite, State.record, Region.isDevice]

theorem push_mem (v : Byte) (s : State) : (push v s).mem = Memory.write s.mem (stackAddr s.sp).toNat v := by
  simp [push, memWrite, State.record, State.stored]

theorem push_peek (v : Byte) (s : State) (b : Word) :
    (push v s).peek b = if hits s.params (stackAddr s.sp) b then some v else s.peek b := by
  rw [push, setSp_peek, memWrite_peek]

theorem push_busByte (v : Byte) (s : State) (b : Word) :
    (push v s).busByte b = if hits s.params (stackAddr s.sp) b then v else s.busByte b := by
  rw [push, setSp_busByte, memWrite_busByte v (region_stackAddr s.params s.sp)]

theorem push_wf (v : Byte) (s : State) (h : Memory.wf s.mem = true) : Memory.wf (push v s).mem = true :=
  memWrite_wf _ v s h

/-- Everything a pop does: the stack page is stored on both buses. -/
theorem pop_eq (s : State) : ∃ v, s.peek (stackAddr (s.sp + 1)) = some v ∧
    pop s = (v, { s with sp := s.sp + 1, accesses := s.accesses ++ [.read (stackAddr (s.sp + 1)) v] }) := by
  refine ⟨_, peek_stackAddr s (s.sp + 1), ?_⟩
  exact memRead_of_peek (s := s.setSp (s.sp + 1)) (peek_stackAddr s (s.sp + 1))

/-! Pops, field by field. -/

@[simp] theorem pop_a (s : State) : (pop s).2.a = s.a := rfl
@[simp] theorem pop_x (s : State) : (pop s).2.x = s.x := rfl
@[simp] theorem pop_y (s : State) : (pop s).2.y = s.y := rfl
@[simp] theorem pop_pc (s : State) : (pop s).2.pc = s.pc := rfl
@[simp] theorem pop_p (s : State) : (pop s).2.p = s.p := rfl
@[simp] theorem pop_clk (s : State) : (pop s).2.clk = s.clk := rfl
@[simp] theorem pop_nmiPending (s : State) : (pop s).2.nmiPending = s.nmiPending := rfl
@[simp] theorem pop_fault (s : State) : (pop s).2.fault = s.fault := rfl
@[simp] theorem pop_irqLine (s : State) : (pop s).2.irqLine = s.irqLine := rfl
@[simp] theorem pop_mem (s : State) : (pop s).2.mem = s.mem := rfl
@[simp] theorem pop_params (s : State) : (pop s).2.params = s.params := rfl
@[simp] theorem pop_sp (s : State) : (pop s).2.sp = s.sp + 1 := rfl
@[simp] theorem pop_flag (s : State) (f : Flag) : (pop s).2.flag f = s.flag f := rfl
@[simp] theorem pop_peek (s : State) (b : Word) : (pop s).2.peek b = s.peek b := rfl

@[simp] theorem popWord_a (s : State) : (popWord s).2.a = s.a := rfl
@[simp] theorem popWord_x (s : State) : (popWord s).2.x = s.x := rfl
@[simp] theorem popWord_y (s : State) : (popWord s).2.y = s.y := rfl
@[simp] theorem popWord_pc (s : State) : (popWord s).2.pc = s.pc := rfl
@[simp] theorem popWord_p (s : State) : (popWord s).2.p = s.p := rfl
@[simp] theorem popWord_clk (s : State) : (popWord s).2.clk = s.clk := rfl
@[simp] theorem popWord_nmiPending (s : State) : (popWord s).2.nmiPending = s.nmiPending := rfl
@[simp] theorem popWord_fault (s : State) : (popWord s).2.fault = s.fault := rfl
@[simp] theorem popWord_irqLine (s : State) : (popWord s).2.irqLine = s.irqLine := rfl
@[simp] theorem popWord_mem (s : State) : (popWord s).2.mem = s.mem := rfl
@[simp] theorem popWord_params (s : State) : (popWord s).2.params = s.params := rfl
@[simp] theorem popWord_flag (s : State) (f : Flag) : (popWord s).2.flag f = s.flag f := rfl
@[simp] theorem popWord_peek (s : State) (b : Word) : (popWord s).2.peek b = s.peek b := rfl

@[simp] theorem returnFromInterrupt_a (s : State) : (returnFromInterrupt s).a = s.a := by
  simp [returnFromInterrupt]
@[simp] theorem returnFromInterrupt_x (s : State) : (returnFromInterrupt s).x = s.x := by
  simp [returnFromInterrupt]
@[simp] theorem returnFromInterrupt_y (s : State) : (returnFromInterrupt s).y = s.y := by
  simp [returnFromInterrupt]
@[simp] theorem returnFromInterrupt_clk (s : State) : (returnFromInterrupt s).clk = s.clk := by
  simp [returnFromInterrupt]
@[simp] theorem returnFromInterrupt_nmiPending (s : State) : (returnFromInterrupt s).nmiPending = s.nmiPending := by
  simp [returnFromInterrupt]
@[simp] theorem returnFromInterrupt_fault (s : State) : (returnFromInterrupt s).fault = s.fault := by
  simp [returnFromInterrupt]
@[simp] theorem returnFromInterrupt_irqLine (s : State) : (returnFromInterrupt s).irqLine = s.irqLine := by
  simp [returnFromInterrupt]
@[simp] theorem returnFromInterrupt_mem (s : State) : (returnFromInterrupt s).mem = s.mem := by
  simp [returnFromInterrupt]
@[simp] theorem returnFromInterrupt_params (s : State) : (returnFromInterrupt s).params = s.params := by
  simp [returnFromInterrupt]
@[simp] theorem returnFromInterrupt_peek (s : State) (b : Word) : (returnFromInterrupt s).peek b = s.peek b := by
  simp [returnFromInterrupt]

theorem pop_of_peek {s : State} {v : Byte} (h : s.peek (stackAddr (s.sp + 1)) = some v) :
    pop s = (v, { s with sp := s.sp + 1, accesses := s.accesses ++ [.read (stackAddr (s.sp + 1)) v] }) :=
  memRead_of_peek (s := s.setSp (s.sp + 1)) h

theorem popWord_of_peek {s : State} {l h : Byte} (hl : s.peek (stackAddr (s.sp + 1)) = some l)
    (hh : s.peek (stackAddr (s.sp + 2)) = some h) :
    popWord s = (join h l, { s with
      sp := s.sp + 2
      accesses := s.accesses ++ [.read (stackAddr (s.sp + 1)) l, .read (stackAddr (s.sp + 2)) h] }) := by
  have e : s.sp + 1 + 1 = s.sp + 2 := by rw [BitVec.add_assoc]; rfl
  have h2 : ({ s with sp := s.sp + 1, accesses := s.accesses ++ [.read (stackAddr (s.sp + 1)) l] } : State).peek
      (stackAddr (s.sp + 1 + 1)) = some h := by rw [e]; exact hh
  simp only [popWord, pop_of_peek hl, pop_of_peek h2, e, List.append_assoc, List.cons_append, List.nil_append]

theorem pushWord_peek (w : Word) (s : State) (b : Word) :
    (pushWord w s).peek b =
      if hits s.params (stackAddr (s.sp - 1)) b then some (lo w)
      else if hits s.params (stackAddr s.sp) b then some (hi w) else s.peek b := by
  simp only [pushWord, push_peek, push_params, push_sp]

/-! ## Interrupts -/

/-- The vectors are above every byte a push changes. -/
theorem read16_vector_push {vec : Word} (h1 : 0x2000 ≤ vec.toNat) (h2 : 0x2000 ≤ (vec + 1).toNat) (v : Byte) (s : State) :
    (read16 vec (push v s)).1 = (read16 vec s).1 := by
  refine readPair_congr (push_params v s) (push_deviceCount v s) ?_ fun n => ?_
  · rw [push_busByte, hits_stackAddr_high h1, if_neg (by simp)]
  · have := push_busByte v ({ s with deviceCount := n } : State) (vec + 1)
    rw [hits_stackAddr_high h2, if_neg (by simp)] at this
    rw [← this]
    simp only [State.busByte, push_params, push_mem]
    cases region s.params (vec + 1) <;> simp

theorem sub_two (v : Byte) : v - 1#8 - 1#8 = v - 2#8 := by bv_omega
theorem sub_three (v : Byte) : v - 2#8 - 1#8 = v - 3#8 := by bv_omega
theorem add_two (v : Byte) : v + 1#8 + 1#8 = v + 2#8 := by bv_omega
theorem add_three (v : Byte) : v + 1#8 + 2#8 = v + 3#8 := by bv_omega

/-! Taking an interrupt, field by field. -/

@[simp] theorem takeInterrupt_a (vec ret : Word) (v : Byte) (s : State) :
    (takeInterrupt vec ret v s).a = s.a := by simp [takeInterrupt, read16, pushWord]

@[simp] theorem takeInterrupt_x (vec ret : Word) (v : Byte) (s : State) :
    (takeInterrupt vec ret v s).x = s.x := by simp [takeInterrupt, read16, pushWord]

@[simp] theorem takeInterrupt_y (vec ret : Word) (v : Byte) (s : State) :
    (takeInterrupt vec ret v s).y = s.y := by simp [takeInterrupt, read16, pushWord]

@[simp] theorem takeInterrupt_clk (vec ret : Word) (v : Byte) (s : State) :
    (takeInterrupt vec ret v s).clk = s.clk := by simp [takeInterrupt, read16, pushWord]

@[simp] theorem takeInterrupt_nmiPending (vec ret : Word) (v : Byte) (s : State) :
    (takeInterrupt vec ret v s).nmiPending = s.nmiPending := by simp [takeInterrupt, read16, pushWord]

@[simp] theorem takeInterrupt_fault (vec ret : Word) (v : Byte) (s : State) :
    (takeInterrupt vec ret v s).fault = s.fault := by simp [takeInterrupt, read16, pushWord]

@[simp] theorem takeInterrupt_irqLine (vec ret : Word) (v : Byte) (s : State) :
    (takeInterrupt vec ret v s).irqLine = s.irqLine := by simp [takeInterrupt, read16, pushWord]

@[simp] theorem takeInterrupt_params (vec ret : Word) (v : Byte) (s : State) :
    (takeInterrupt vec ret v s).params = s.params := by simp [takeInterrupt, read16, pushWord]

@[simp] theorem takeInterrupt_p (vec ret : Word) (v : Byte) (s : State) :
    (takeInterrupt vec ret v s).p = putFlag s.p .i true := by simp [takeInterrupt, read16, pushWord]

theorem takeInterrupt_mem (vec ret : Word) (v : Byte) (s : State) :
    (takeInterrupt vec ret v s).mem = (push v (pushWord ret s)).mem := by simp [takeInterrupt, read16]

@[simp] theorem takeInterrupt_sp (vec ret : Word) (v : Byte) (s : State) : (takeInterrupt vec ret v s).sp = s.sp - 3 := by
  simp [takeInterrupt, read16, pushWord, sub_two, sub_three]

@[simp] theorem takeInterrupt_accesses (vec ret : Word) (v : Byte) (s : State) :
    (takeInterrupt vec ret v s).accesses = s.accesses ++
      [.write (stackAddr s.sp) (hi ret), .write (stackAddr (s.sp - 1)) (lo ret), .write (stackAddr (s.sp - 2)) v,
       .read vec (lo (takeInterrupt vec ret v s).pc), .read (vec + 1) (hi (takeInterrupt vec ret v s).pc)] := by
  simp [takeInterrupt, read16, pushWord, sub_two]

theorem takeInterrupt_pc {vec : Word} (h1 : 0x2000 ≤ vec.toNat) (h2 : 0x2000 ≤ (vec + 1).toNat) (ret : Word) (v : Byte)
    (s : State) : (takeInterrupt vec ret v s).pc = (read16 vec s).1 := by
  rw [takeInterrupt, setPc_pc, show (read16 vec ((push v (pushWord ret s)).setFlag .i true)).1 =
    (read16 vec (push v (pushWord ret s))).1 from readPair_congr rfl rfl rfl fun _ => rfl]
  rw [read16_vector_push h1 h2, pushWord, read16_vector_push h1 h2, read16_vector_push h1 h2]

theorem takeInterrupt_peek (vec ret : Word) (v : Byte) (s : State) (b : Word) :
    (takeInterrupt vec ret v s).peek b =
      if hits s.params (stackAddr s.sp) b then some (hi ret)
      else if hits s.params (stackAddr (s.sp - 1)) b then some (lo ret)
      else if hits s.params (stackAddr (s.sp - 2)) b then some v
      else s.peek b := by
  have d1 : s.sp ≠ s.sp - 1 := by bv_omega
  have d2 : s.sp ≠ s.sp - 2 := by bv_omega
  have d3 : s.sp - 1 ≠ s.sp - 2 := by bv_omega
  rw [show (takeInterrupt vec ret v s).peek b = (push v (pushWord ret s)).peek b by
    simp only [takeInterrupt, read16, setPc_peek, readPair_peek, setFlag_peek]]
  rw [push_peek, pushWord_peek, show (pushWord ret s).sp = s.sp - 2 from sub_two s.sp]
  show (if hits s.params (stackAddr (s.sp - 2)) b then _ else _) = _
  by_cases a1 : hits s.params (stackAddr s.sp) b = true
  · rw [hits_stackAddr_excl d1 a1, hits_stackAddr_excl d2 a1, a1]; rfl
  · by_cases a2 : hits s.params (stackAddr (s.sp - 1)) b = true
    · rw [hits_stackAddr_excl d3 a2, a2, if_neg a1, if_neg a1]; rfl
    · rw [if_neg a2, if_neg a1, if_neg a1, if_neg a2]

theorem takeInterrupt_wf (vec ret : Word) (v : Byte) (s : State) (h : Memory.wf s.mem = true) :
    Memory.wf (takeInterrupt vec ret v s).mem = true := by
  rw [takeInterrupt_mem]
  exact push_wf _ _ (push_wf _ _ (push_wf _ _ h))

/-- Taking an interrupt, as the statements say it (R247, R226). -/
theorem takeInterrupt_taken {vec : Word} (h1 : 0x2000 ≤ vec.toNat) (h2 : 0x2000 ≤ (vec + 1).toNat) (ret : Word)
    (v : Byte) (s : State) : InterruptTaken vec ret v s.accesses s (takeInterrupt vec ret v s) where
  a := takeInterrupt_a vec ret v s
  x := takeInterrupt_x vec ret v s
  y := takeInterrupt_y vec ret v s
  sp := takeInterrupt_sp vec ret v s
  pc := takeInterrupt_pc h1 h2 ret v s
  flagI := by rw [State.flag, takeInterrupt_p, flagOf_putFlag_same]
  flags := fun f hf => by rw [State.flag, takeInterrupt_p, flagOf_putFlag_ne _ _ (by simpa using hf)]; rfl
  memory := takeInterrupt_peek vec ret v s
  accesses := takeInterrupt_accesses vec ret v s
  fault := takeInterrupt_fault vec ret v s
  irqLine := takeInterrupt_irqLine vec ret v s
  params := takeInterrupt_params vec ret v s

/-- The clock does not matter to an interrupt taken. -/
theorem InterruptTaken.addClk {vec ret : Word} {v : Byte} {l : List BusAccess} {s t : State}
    (h : InterruptTaken vec ret v l s t) (n : Nat) : InterruptTaken vec ret v l s (t.addClk n) where
  a := by rw [addClk_a, h.a]
  x := by rw [addClk_x, h.x]
  y := by rw [addClk_y, h.y]
  sp := by rw [addClk_sp, h.sp]
  pc := by rw [addClk_pc, h.pc]
  flagI := by rw [addClk_flag, h.flagI]
  flags := fun f hf => by rw [addClk_flag, h.flags f hf]
  memory := fun b => by rw [addClk_peek, h.memory b]
  accesses := by rw [addClk_accesses, addClk_pc, h.accesses]
  fault := by rw [addClk_fault, h.fault]
  irqLine := by rw [addClk_irqLine, h.irqLine]
  params := by rw [addClk_params, h.params]

/-- Nor do the NMI latch and the earlier transactions of the state it is taken in. -/
theorem InterruptTaken.of_start {vec ret : Word} {v : Byte} {l : List BusAccess} {s t : State} {n : Bool}
    {q : List BusAccess} (h : InterruptTaken vec ret v l { s with nmiPending := n, accesses := q } t) :
    InterruptTaken vec ret v l s t where
  a := h.a
  x := h.x
  y := h.y
  sp := h.sp
  pc := h.pc.trans (readPair_congr rfl rfl rfl fun _ => rfl)
  flagI := h.flagI
  flags := h.flags
  memory := h.memory
  accesses := h.accesses
  fault := h.fault
  irqLine := h.irqLine
  params := h.params

/-- An interrupt entry is the shared operation and the clock (R247). -/
theorem interruptEntry_eq (vec : Word) (s : State) :
    interruptEntry vec s = (takeInterrupt vec s.pc (s.p &&& 0xEF) s).addClk s.params.intCycles := rfl

/-- Everything a return from interrupt does (R251, R227). -/
theorem returnFromInterrupt_of_peek {s : State} {p l h : Byte} (hp : s.peek (stackAddr (s.sp + 1)) = some p)
    (hl : s.peek (stackAddr (s.sp + 2)) = some l) (hh : s.peek (stackAddr (s.sp + 3)) = some h) :
    returnFromInterrupt s = { s with
      sp := s.sp + 3
      p := p
      pc := join h l
      accesses := s.accesses ++
        [.read (stackAddr (s.sp + 1)) p, .read (stackAddr (s.sp + 2)) l, .read (stackAddr (s.sp + 3)) h] } := by
  have hl' : ((pop s).2.setP p).peek (stackAddr (((pop s).2.setP p).sp + 1)) = some l := by
    rw [pop_of_peek hp]
    show s.peek (stackAddr (s.sp + 1 + 1)) = some l
    rw [show s.sp + 1 + 1 = s.sp + 2 from add_two s.sp, hl]
  have hh' : ((pop s).2.setP p).peek (stackAddr (((pop s).2.setP p).sp + 2)) = some h := by
    rw [pop_of_peek hp]
    show s.peek (stackAddr (s.sp + 1 + 2)) = some h
    rw [show s.sp + 1 + 2 = s.sp + 3 from add_three s.sp, hh]
  have e : (pop s).1 = p := by rw [pop_of_peek hp]
  rw [returnFromInterrupt]
  simp only [e]
  rw [popWord_of_peek hl' hh', pop_of_peek hp]
  simp [State.setPc, State.setP, add_two, add_three]

end Sys2Proof.Machine
end

