-- ==== Sys2Proof/Laws/Operands.lean ====
section
/-! SUPPORT. The resolver, `Load` and `Store`: which locations they give, and everything they can change. -/

namespace Sys2Proof.Machine

/-! ## The resolver -/

/-- Everything `Resolve` can change: the record of its pointer reads and the count of forwarded transactions. -/
theorem resolve_eq (o : Operand) (s : State) : ∃ reads n,
    (resolve o s).2 = { s with accesses := s.accesses ++ reads, deviceCount := n } := by
  cases o
  case ind p => exact ⟨_, readPair_eq p _ s⟩
  case izx b => exact ⟨_, readPair_eq _ _ s⟩
  case izy z => exact ⟨_, readPair_eq _ _ s⟩
  all_goals exact ⟨[], s.deviceCount, by simp [resolve]⟩

@[simp] theorem resolve_a (o : Operand) (s : State) : (resolve o s).2.a = s.a := by
  obtain ⟨_, _, h⟩ := resolve_eq o s; rw [h]
@[simp] theorem resolve_x (o : Operand) (s : State) : (resolve o s).2.x = s.x := by
  obtain ⟨_, _, h⟩ := resolve_eq o s; rw [h]
@[simp] theorem resolve_y (o : Operand) (s : State) : (resolve o s).2.y = s.y := by
  obtain ⟨_, _, h⟩ := resolve_eq o s; rw [h]
@[simp] theorem resolve_sp (o : Operand) (s : State) : (resolve o s).2.sp = s.sp := by
  obtain ⟨_, _, h⟩ := resolve_eq o s; rw [h]
@[simp] theorem resolve_pc (o : Operand) (s : State) : (resolve o s).2.pc = s.pc := by
  obtain ⟨_, _, h⟩ := resolve_eq o s; rw [h]
@[simp] theorem resolve_p (o : Operand) (s : State) : (resolve o s).2.p = s.p := by
  obtain ⟨_, _, h⟩ := resolve_eq o s; rw [h]
@[simp] theorem resolve_clk (o : Operand) (s : State) : (resolve o s).2.clk = s.clk := by
  obtain ⟨_, _, h⟩ := resolve_eq o s; rw [h]
@[simp] theorem resolve_nmiPending (o : Operand) (s : State) : (resolve o s).2.nmiPending = s.nmiPending := by
  obtain ⟨_, _, h⟩ := resolve_eq o s; rw [h]
@[simp] theorem resolve_fault (o : Operand) (s : State) : (resolve o s).2.fault = s.fault := by
  obtain ⟨_, _, h⟩ := resolve_eq o s; rw [h]
@[simp] theorem resolve_irqLine (o : Operand) (s : State) : (resolve o s).2.irqLine = s.irqLine := by
  obtain ⟨_, _, h⟩ := resolve_eq o s; rw [h]
@[simp] theorem resolve_mem (o : Operand) (s : State) : (resolve o s).2.mem = s.mem := by
  obtain ⟨_, _, h⟩ := resolve_eq o s; rw [h]
@[simp] theorem resolve_params (o : Operand) (s : State) : (resolve o s).2.params = s.params := by
  obtain ⟨_, _, h⟩ := resolve_eq o s; rw [h]
@[simp] theorem resolve_flag (o : Operand) (s : State) (f : Flag) : (resolve o s).2.flag f = s.flag f := by
  rw [State.flag, resolve_p]; rfl
@[simp] theorem resolve_peek (o : Operand) (s : State) (b : Word) : (resolve o s).2.peek b = s.peek b := by
  obtain ⟨_, _, h⟩ := resolve_eq o s; rw [h]; rfl

/-- A memory mode gives a memory location. -/
theorem resolve_isMemory {o : Operand} (h : o.mode.isMemory = true) (s : State) :
    ∃ a c, (resolve o s).1 = .memLoc a c := by
  cases o <;> first | exact ⟨_, _, rfl⟩ | cases h

/-- The modes that do not report a page crossing give none (R105). -/
theorem resolve_mayCross {o : Operand} (h : o.mode.mayCross = false) (s : State) : (resolve o s).1.crossing = 0 := by
  cases o <;> first | rfl | cases h

theorem crossing_le (l : Loc) : l.crossing ≤ 1 := by
  cases l <;> simp [Loc.crossing, bitNat]
  split <;> decide

/-- An implied operand resolves to nothing and changes nothing. -/
theorem resolve_implied {o : Operand} (h : o.mode = .imp) (s : State) : resolve o s = (.noLoc, s) := by
  cases o <;> first | rfl | cases h

/-! ## Load and Store -/

/-- The state after the operand of `i` has been resolved and loaded. -/
def loaded (i : Instr) (s : State) : State :=
  match operandLoc i s with
  | .memLoc a _ => (memRead a (resolve i.operand s).2).2
  | .noLoc | .accLoc | .immLoc _ | .relLoc _ _ => (resolve i.operand s).2

/-- Everything resolving and loading can change. -/
theorem loaded_eq (i : Instr) (s : State) : ∃ n,
    loaded i s = { s with
      accesses := afterResolve i s ++ loadAccess (operandLoc i s) (operandByte i s)
      deviceCount := n } := by
  obtain ⟨reads, n, h⟩ := resolve_eq i.operand s
  unfold loaded afterResolve loadAccess operandByte
  cases operandLoc i s with
  | memLoc a c => exact ⟨_, by simp only [memRead, State.record, h]; rfl⟩
  | _ => exact ⟨n, by simp [h]⟩

@[simp] theorem loaded_a (i : Instr) (s : State) : (loaded i s).a = s.a := by
  obtain ⟨_, h⟩ := loaded_eq i s; rw [h]
@[simp] theorem loaded_x (i : Instr) (s : State) : (loaded i s).x = s.x := by
  obtain ⟨_, h⟩ := loaded_eq i s; rw [h]
@[simp] theorem loaded_y (i : Instr) (s : State) : (loaded i s).y = s.y := by
  obtain ⟨_, h⟩ := loaded_eq i s; rw [h]
@[simp] theorem loaded_sp (i : Instr) (s : State) : (loaded i s).sp = s.sp := by
  obtain ⟨_, h⟩ := loaded_eq i s; rw [h]
@[simp] theorem loaded_pc (i : Instr) (s : State) : (loaded i s).pc = s.pc := by
  obtain ⟨_, h⟩ := loaded_eq i s; rw [h]
@[simp] theorem loaded_p (i : Instr) (s : State) : (loaded i s).p = s.p := by
  obtain ⟨_, h⟩ := loaded_eq i s; rw [h]
@[simp] theorem loaded_clk (i : Instr) (s : State) : (loaded i s).clk = s.clk := by
  obtain ⟨_, h⟩ := loaded_eq i s; rw [h]
@[simp] theorem loaded_nmiPending (i : Instr) (s : State) : (loaded i s).nmiPending = s.nmiPending := by
  obtain ⟨_, h⟩ := loaded_eq i s; rw [h]
@[simp] theorem loaded_fault (i : Instr) (s : State) : (loaded i s).fault = s.fault := by
  obtain ⟨_, h⟩ := loaded_eq i s; rw [h]
@[simp] theorem loaded_irqLine (i : Instr) (s : State) : (loaded i s).irqLine = s.irqLine := by
  obtain ⟨_, h⟩ := loaded_eq i s; rw [h]
@[simp] theorem loaded_mem (i : Instr) (s : State) : (loaded i s).mem = s.mem := by
  obtain ⟨_, h⟩ := loaded_eq i s; rw [h]
@[simp] theorem loaded_params (i : Instr) (s : State) : (loaded i s).params = s.params := by
  obtain ⟨_, h⟩ := loaded_eq i s; rw [h]
@[simp] theorem loaded_flag (i : Instr) (s : State) (f : Flag) : (loaded i s).flag f = s.flag f := by
  rw [State.flag, loaded_p]; rfl
@[simp] theorem loaded_peek (i : Instr) (s : State) (b : Word) : (loaded i s).peek b = s.peek b := by
  obtain ⟨_, h⟩ := loaded_eq i s; rw [h]; rfl
@[simp] theorem loaded_accesses (i : Instr) (s : State) :
    (loaded i s).accesses = afterResolve i s ++ loadAccess (operandLoc i s) (operandByte i s) := by
  obtain ⟨_, h⟩ := loaded_eq i s; rw [h]

/-- A location that `Load` supports (R91). -/
def Loc.loadable : Loc → Bool
  | .accLoc | .immLoc _ | .memLoc _ _ => true
  | .noLoc | .relLoc _ _ => false

/-- `Load` of an instruction's operand gives its byte and `loaded` (R91). -/
theorem load_operand {i : Instr} {s : State} (h : (operandLoc i s).loadable = true) :
    load (operandLoc i s) (resolve i.operand s).2 = .ok (operandByte i s, loaded i s) := by
  unfold loaded operandByte
  cases hl : operandLoc i s with
  | accLoc => simp [load]
  | immLoc v => simp [load]
  | memLoc a c => rfl
  | noLoc => rw [hl] at h; cases h
  | relLoc a c => rw [hl] at h; cases h

theorem withLoad_operand {i : Instr} {s : State} (h : (operandLoc i s).loadable = true) (k : Byte → State → Effect) :
    withLoad (operandLoc i s) (resolve i.operand s).2 k = k (operandByte i s) (loaded i s) := by
  rw [withLoad, load_operand h]

/-- `Store` through a memory location is one bus write (R91). -/
@[simp] theorem withStore_memLoc (a : Word) (c : Bool) (v : Byte) (s : State) (k : State → Effect) :
    withStore (.memLoc a c) v s k = k (memWrite a v s) := rfl

/-- `Store` through the accumulator (R91). -/
@[simp] theorem withStore_accLoc (v : Byte) (s : State) (k : State → Effect) :
    withStore .accLoc v s k = k (s.setA v) := rfl

end Sys2Proof.Machine
end

