-- ==== Sys2Proof/Laws/Exec.lean ====
section
/-! SUPPORT. Every meaning is one operation of files 42 to 47 over one shared course; the operand it gets, and its cost. -/

namespace Sys2Proof.Machine

open Sys2Proof.Laws

/-- `Execute(op, loc)` (41_execution_loop.md R115). -/
def execute : Op → Loc → State → Effect
  | .adc => opAdc
  | .and => opAnd
  | .asl => opAsl
  | .bcc => opBcc
  | .bcs => opBcs
  | .beq => opBeq
  | .bit => opBit
  | .bmi => opBmi
  | .bne => opBne
  | .bpl => opBpl
  | .brk => opBrk
  | .bvc => opBvc
  | .bvs => opBvs
  | .clc => opClc
  | .cld => opCld
  | .cli => opCli
  | .clv => opClv
  | .cmp => opCmp
  | .cpx => opCpx
  | .cpy => opCpy
  | .dec => opDec
  | .dex => opDex
  | .dey => opDey
  | .eor => opEor
  | .inc => opInc
  | .inx => opInx
  | .iny => opIny
  | .jmp => opJmp
  | .jsr => opJsr
  | .lda => opLda
  | .ldx => opLdx
  | .ldy => opLdy
  | .lsr => opLsr
  | .nop => opNop
  | .ora => opOra
  | .pha => opPha
  | .php => opPhp
  | .pla => opPla
  | .plp => opPlp
  | .rol => opRol
  | .ror => opRor
  | .rti => opRti
  | .rts => opRts
  | .sbc => opSbc
  | .sec => opSec
  | .sed => opSed
  | .sei => opSei
  | .sta => opSta
  | .stx => opStx
  | .sty => opSty
  | .tax => opTax
  | .tay => opTay
  | .tsx => opTsx
  | .txa => opTxa
  | .txs => opTxs
  | .tya => opTya

/-- Every arm of `exec` is the shared course over the operation of its opcode. -/
theorem exec_eq (i : Instr) (s : State) : exec i s = perform i (execute i.op) s := by
  cases i <;> rfl

/-- The answer of an instruction whose operation completes. -/
theorem exec_done {i : Instr} {s t : State} {e : Nat}
    (h : execute i.op (operandLoc i s) (resolve i.operand s).2 = .done t e) :
    exec i s = .next (t.addClk (cost i e)) := by
  rw [exec_eq, perform]
  simp only [operandLoc] at h
  simp only [h]

/-! ## Operands that fit their operation -/

theorem op_fits (i : Instr) : i.op.kind.fits i.operand.mode = true := instr_wf i

/-- An operation that reads gets a location it can load from (R106). -/
theorem read_loadable {i : Instr} (h : i.op.kind = .read ∨ i.op.kind = .modify) (s : State) :
    (operandLoc i s).loadable = true := by
  have hf := op_fits i
  unfold operandLoc
  cases ho : i.operand <;> rw [ho] at hf <;> rcases h with h | h <;> rw [h] at hf <;> first | rfl | cases hf

/-- An operation that stores, jumps or calls gets a memory location (R106). -/
theorem store_memLoc {i : Instr} (h : i.op.kind = .store ∨ i.op.kind = .jump ∨ i.op.kind = .call) (s : State) :
    ∃ a c, operandLoc i s = .memLoc a c := by
  have hf := op_fits i
  unfold operandLoc
  cases ho : i.operand <;> rw [ho] at hf <;> rcases h with h | h | h <;> rw [h] at hf <;>
    first | exact ⟨_, _, rfl⟩ | cases hf

/-- A read-modify-write operation gets the accumulator or a memory location (R169). -/
theorem modify_loc {i : Instr} (h : i.op.kind = .modify) (s : State) :
    (i.operand = .acc ∧ operandLoc i s = .accLoc) ∨ (i.operand ≠ .acc ∧ ∃ a c, operandLoc i s = .memLoc a c) := by
  have hf := op_fits i
  unfold operandLoc
  cases ho : i.operand <;> rw [ho, h] at hf <;>
    first | exact .inl ⟨rfl, rfl⟩ | exact .inr ⟨by simp, _, _, rfl⟩ | cases hf

/-- An implied operation gets no location and the state as it was (R92). -/
theorem implied_resolve {i : Instr} (h : i.op.kind = .implied) (s : State) : resolve i.operand s = (.noLoc, s) := by
  have hf := op_fits i
  cases ho : i.operand <;> rw [ho, h] at hf <;> first | rfl | cases hf

/-- A branch gets its target and the state as it was (R104). -/
theorem branch_resolve {i : Instr} (h : i.op.kind = .branch) (s : State) :
    ∃ o, i.operand = .rel o ∧ resolve i.operand s = (.relLoc (s.pc + sext o) (crosses (s.pc + sext o) s.pc), s) := by
  have hf := op_fits i
  cases ho : i.operand <;> rw [ho, h] at hf <;> first | exact ⟨_, rfl, rfl⟩ | cases hf

/-! ## The answer, by kind of operation -/

/-- An operation that loads its operand and goes on with `f` (files 42 to 44). -/
theorem exec_read {i : Instr} (hk : i.op.kind = .read) {f : Byte → State → State}
    (hf : ∀ l s, execute i.op l s = withLoad l s fun v t => .done (f v t) l.crossing) (s : State) :
    exec i s = .next ((f (operandByte i s) (loaded i s)).addClk (cost i (operandLoc i s).crossing)) := by
  apply exec_done
  rw [hf, withLoad_operand (read_loadable (.inl hk) s)]

/-- An operation that names its own registers. -/
theorem exec_implied {i : Instr} (hk : i.op.kind = .implied) {f : State → State}
    (hf : ∀ l s, execute i.op l s = .done (f s) l.crossing) (s : State) :
    exec i s = .next ((f s).addClk (cost i 0)) := by
  apply exec_done
  rw [hf, operandLoc, implied_resolve hk s]
  rfl

/-- An operation that stores a register at its operand's effective address. -/
theorem exec_store {i : Instr} (hk : i.op.kind = .store) {f : State → Byte}
    (hf : ∀ l s, execute i.op l s = withStore l (f s) s fun t => .done t l.crossing) (s : State) :
    ∃ a c, operandLoc i s = .memLoc a c ∧
      exec i s = .next
        ((memWrite a (f (resolve i.operand s).2) (resolve i.operand s).2).addClk (cost i (operandLoc i s).crossing)) := by
  obtain ⟨a, c, hl⟩ := store_memLoc (.inl hk) s
  refine ⟨a, c, hl, ?_⟩
  apply exec_done
  rw [hf, hl]
  rfl

/-- A read-modify-write operation (R169): `f` gives the new value and what is written before the store. -/
theorem exec_modify {i : Instr} (hk : i.op.kind = .modify) {f : Byte → State → Byte × State}
    (hf : ∀ l s, execute i.op l s = readModifyWrite l s f) (s : State) :
    let r := f (operandByte i s) (loaded i s)
    (operandLoc i s = .accLoc ∧ i.operand = .acc ∧
      exec i s = .next (((r.2.setA r.1).setZN r.1).addClk (cost i 0))) ∨
    (∃ a c, operandLoc i s = .memLoc a c ∧ i.operand ≠ .acc ∧
      exec i s = .next (((memWrite a r.1 r.2).setZN r.1).addClk (cost i (operandLoc i s).crossing))) := by
  rcases modify_loc hk s with ⟨ho, hl⟩ | ⟨ho, a, c, hl⟩
  · refine .inl ⟨hl, ho, ?_⟩
    apply exec_done
    rw [hf, readModifyWrite, withLoad_operand (read_loadable (.inr hk) s), hl]
    rfl
  · refine .inr ⟨a, c, hl, ho, ?_⟩
    apply exec_done
    rw [hf, readModifyWrite, withLoad_operand (read_loadable (.inr hk) s), hl]
    rfl

/-! ## Cost -/

/-- The cost of an instruction, from its row: base cycles, plus what it signals where the extra flag is set (R116). -/
theorem cost_eq (i : Instr) : ∃ d : Descriptor, d.wf = true ∧ d.op = i.op ∧ d.mode = i.operand.mode ∧
    ∀ e, cost i e = d.cycles + (if d.extra then e else 0) := by
  obtain ⟨c, x, h⟩ := (tableRow_all i).1
  exact ⟨_, descriptor_wf h, rfl, rfl, fun e => by rw [cost, h]; rfl⟩

/-- The cost, from the numbers of the row. -/
theorem cost_of_row {i : Instr} {op : Op} {m : Mode} {c : Nat} {x : Bool} (h : descriptor i.opcode = some ⟨op, m, c, x⟩)
    (e : Nat) : cost i e = c + (if x then e else 0) := by
  rw [cost, h]
  rfl

/-- A completed instruction costs 2 to 7 cycles: what it signals is at most 2, for a branch, and counts only with 5 base
cycles or fewer (R293). -/
theorem cost_bounds (i : Instr) {e : Nat} (he : e ≤ 2) : 2 ≤ cost i e ∧ cost i e ≤ 7 := by
  obtain ⟨c, x, h⟩ := (tableRow_all i).1
  have hw := descriptor_wf h
  have hx := descriptor_extra h
  simp only [Descriptor.wf, Bool.and_eq_true, decide_eq_true_eq] at hw
  have hc : cost i e = c + (if x then e else 0) := by rw [cost, h]; rfl
  cases x
  · simp at hc; omega
  · have := hx rfl
    simp at hc this
    omega

/-- Where the extra flag is clear, the cost does not depend on what is signalled: no flag is set but for branches and reads
(R81). -/
theorem cost_no_extra {i : Instr} (h : i.op.kind ≠ .branch) (h' : i.op.kind ≠ .read ∨ i.operand.mode.mayCross = false)
    (e : Nat) : cost i e = cost i 0 := by
  obtain ⟨d, hw, ho, hm, hc⟩ := cost_eq i
  have hx : d.extra = false := by
    simp only [Descriptor.wf, Bool.and_eq_true, beq_iff_eq, ho, hm] at hw
    rw [hw.2]
    rcases h' with h' | h' <;> simp [h, h']
  rw [hc, hc, hx]
  rfl

end Sys2Proof.Machine
end

