-- ==== Sys2Proof/Laws/Frame.lean ====
section
/-! SUPPORT. The terms of Safety.lean over the named updates: what sets Z and N, what is kept, what every meaning completes. -/

namespace Sys2Proof.Machine

/-- `SetZN` sets Z and N from its value (R20). -/
theorem znFrom_setZN (v : Byte) (s : State) : ZNFrom v (s.setZN v) := by
  refine ⟨?_, ?_⟩ <;> simp only [setZN_flag]
  · simp
  · simpa using bit7_iff v

/-- Only the status byte matters to Z and N. -/
theorem ZNFrom.congr {v : Byte} {s t : State} (h : ZNFrom v s) (hp : t.p = s.p) : ZNFrom v t := by
  simpa only [ZNFrom, State.flag, hp] using h

theorem ZNFrom.addClk {v : Byte} {s : State} (h : ZNFrom v s) (n : Nat) : ZNFrom v (s.addClk n) := h.congr rfl

theorem flagsKept_of_p {l : List Flag} {s t : State} (h : t.p = s.p) : FlagsKept l s t :=
  fun f _ => by rw [State.flag, h]; rfl

/-- What a completed operation leaves to the clock. -/
theorem completed_addClk {i : Instr} {e : Nat} {s t : State} (hc : t.clk = s.clk) (hn : t.nmiPending = s.nmiPending)
    (hf : t.fault = s.fault) (hi : t.irqLine = s.irqLine) (hp : t.params = s.params) :
    Completed i e s (t.addClk (cost i e)) :=
  ⟨by rw [addClk_clk, hc], hn, hf, hi, hp⟩

theorem Completed.of_cost {i : Instr} {e e' : Nat} {s t : State} (h : Completed i e s t) (hc : cost i e = cost i e') :
    Completed i e' s t :=
  ⟨by rw [h.clk, hc], h.nmiPending, h.fault, h.irqLine, h.params⟩

theorem MemoryKept.of_peek {s t : State} (h : ∀ b, t.peek b = s.peek b) : MemoryKept s t := h

end Sys2Proof.Machine
end

