-- ==== Sys2Proof/Laws/Completes.lean ====
section
/-! SUPPORT. What no operation changes, and that every instruction completes. -/

namespace Sys2Proof.Machine

/-- What no operation changes (10_state.md R26), and the canonical form of memory, which every operation keeps. -/
structure Keeps (s t : State) : Prop where
  clk        : t.clk = s.clk
  nmiPending : t.nmiPending = s.nmiPending
  fault      : t.fault = s.fault
  irqLine    : t.irqLine = s.irqLine
  params     : t.params = s.params
  wf         : Memory.wf s.mem = true → Memory.wf t.mem = true

theorem Keeps.refl (s : State) : Keeps s s := ⟨rfl, rfl, rfl, rfl, rfl, id⟩

theorem Keeps.trans {s t u : State} (h : Keeps s t) (k : Keeps t u) : Keeps s u :=
  ⟨k.clk.trans h.clk, k.nmiPending.trans h.nmiPending, k.fault.trans h.fault, k.irqLine.trans h.irqLine,
    k.params.trans h.params, k.wf ∘ h.wf⟩

/-- An update that touches nothing but registers, flags, the record and the count. -/
theorem Keeps.of_fields {s t : State} (h1 : t.clk = s.clk) (h2 : t.nmiPending = s.nmiPending) (h3 : t.fault = s.fault)
    (h4 : t.irqLine = s.irqLine) (h5 : t.params = s.params) (h6 : t.mem = s.mem) : Keeps s t :=
  ⟨h1, h2, h3, h4, h5, fun h => h6 ▸ h⟩

theorem keeps_memWrite (a : Word) (v : Byte) (s : State) : Keeps s (memWrite a v s) :=
  ⟨rfl, rfl, rfl, rfl, rfl, memWrite_wf a v s⟩

theorem keeps_push (v : Byte) (s : State) : Keeps s (push v s) := ⟨rfl, rfl, rfl, rfl, rfl, push_wf v s⟩

theorem keeps_pushWord (w : Word) (s : State) : Keeps s (pushWord w s) := (keeps_push _ s).trans (keeps_push _ _)

theorem keeps_pop (s : State) : Keeps s (pop s).2 := ⟨rfl, rfl, rfl, rfl, rfl, id⟩

theorem keeps_popWord (s : State) : Keeps s (popWord s).2 := (keeps_pop s).trans (keeps_pop _)

theorem keeps_setP (s : State) (v : Byte) : Keeps s (s.setP v) := ⟨rfl, rfl, rfl, rfl, rfl, id⟩

theorem keeps_setPc (s : State) (v : Word) : Keeps s (s.setPc v) := ⟨rfl, rfl, rfl, rfl, rfl, id⟩

theorem keeps_setZN (s : State) (v : Byte) : Keeps s (s.setZN v) := ⟨rfl, rfl, rfl, rfl, rfl, id⟩

theorem keeps_readPair (a b : Word) (s : State) : Keeps s (readPair a b s).2 := by
  obtain ⟨n, h⟩ := readPair_eq a b s
  rw [h]
  exact .of_fields rfl rfl rfl rfl rfl rfl

theorem keeps_takeInterrupt (vec ret : Word) (v : Byte) (s : State) : Keeps s (takeInterrupt vec ret v s) :=
  ⟨takeInterrupt_clk .., takeInterrupt_nmiPending .., takeInterrupt_fault .., takeInterrupt_irqLine ..,
    takeInterrupt_params .., takeInterrupt_wf vec ret v s⟩

theorem keeps_returnFromInterrupt (s : State) : Keeps s (returnFromInterrupt s) :=
  ((keeps_pop s).trans (keeps_setP _ _)).trans ((keeps_popWord _).trans (keeps_setPc _ _))

theorem keeps_loaded (i : Instr) (s : State) : Keeps s (loaded i s) := by
  obtain ⟨n, h⟩ := loaded_eq i s
  rw [h]
  exact .of_fields rfl rfl rfl rfl rfl rfl

theorem keeps_resolve (o : Operand) (s : State) : Keeps s (resolve o s).2 := by
  obtain ⟨l, n, h⟩ := resolve_eq o s
  rw [h]
  exact .of_fields rfl rfl rfl rfl rfl rfl

/-- The answer of a completed operation: it goes on from `u`, which it keeps, and signals at most two extra cycles. -/
def CompletesFrom (i : Instr) (s u : State) : Prop := ∃ e, e ≤ 2 ∧ exec i s = .next (u.addClk (cost i e)) ∧ Keeps s u

/-! ## What each operation goes on with, by kind -/

/-- What a reading operation does with its operand byte (files 42 to 44). -/
def readEffect : Op → Byte → State → State
  | .lda => fun v t => (t.setA v).setZN v
  | .ldx => fun v t => (t.setX v).setZN v
  | .ldy => fun v t => (t.setY v).setZN v
  | .adc => addToA
  | .sbc => fun m => addToA (m ^^^ 0xFF)
  | .and => fun m t => (t.setA (t.a &&& m)).setZN (t.a &&& m)
  | .ora => fun m t => (t.setA (t.a ||| m)).setZN (t.a ||| m)
  | .eor => fun m t => (t.setA (t.a ^^^ m)).setZN (t.a ^^^ m)
  | .cmp => fun m t => setCompare t.a m t
  | .cpx => fun m t => setCompare t.x m t
  | .cpy => fun m t => setCompare t.y m t
  | .bit => setBitTest
  | _ => fun _ t => t

/-- The register a storing operation stores (R128 to R130). -/
def storedRegister : Op → State → Byte
  | .sta => State.a
  | .stx => State.x
  | .sty => State.y
  | _ => fun _ => 0

/-- What a read-modify-write operation makes of its operand byte, and writes before the store (R165 to R168, R180, R181). -/
def modifyEffect : Op → Byte → State → Byte × State
  | .asl => shiftValue .asl
  | .lsr => shiftValue .lsr
  | .rol => shiftValue .rol
  | .ror => shiftValue .ror
  | .inc => fun v t => (v + 1, t)
  | .dec => fun v t => (v - 1, t)
  | _ => fun v t => (v, t)

/-- What an operation without operand does (files 42, 45 to 47). -/
def impliedEffect : Op → State → State
  | .tax => fun s => (s.setX s.a).setZN s.a
  | .tay => fun s => (s.setY s.a).setZN s.a
  | .txa => fun s => (s.setA s.x).setZN s.x
  | .tya => fun s => (s.setA s.y).setZN s.y
  | .tsx => fun s => (s.setX s.sp).setZN s.sp
  | .txs => fun s => s.setSp s.x
  | .inx => fun s => (s.setX (s.x + 1)).setZN (s.x + 1)
  | .iny => fun s => (s.setY (s.y + 1)).setZN (s.y + 1)
  | .dex => fun s => (s.setX (s.x - 1)).setZN (s.x - 1)
  | .dey => fun s => (s.setY (s.y - 1)).setZN (s.y - 1)
  | .pha => fun s => push s.a s
  | .php => fun s => push s.p s
  | .pla => fun s => ((pop s).2.setA (pop s).1).setZN (pop s).1
  | .plp => fun s => (pop s).2.setP (pop s).1
  | .clc => fun s => s.setFlag .c false
  | .sec => fun s => s.setFlag .c true
  | .cli => fun s => s.setFlag .i false
  | .sei => fun s => s.setFlag .i true
  | .clv => fun s => s.setFlag .v false
  | .cld => fun s => s.setFlag .d false
  | .sed => fun s => s.setFlag .d true
  | .brk => fun s => takeInterrupt irqVector (s.pc + 1) (s.p ||| 0x10) s
  | .rti => returnFromInterrupt
  | .rts => fun s => (popWord s).2.setPc ((popWord s).1 + 1)
  | _ => fun s => s

/-- Which flag a branch tests against which state (R191 to R198). -/
def branchTest : Op → Flag × Bool
  | .bpl => (.n, false)
  | .bmi => (.n, true)
  | .bvc => (.v, false)
  | .bvs => (.v, true)
  | .bcc => (.c, false)
  | .bcs => (.c, true)
  | .bne => (.z, false)
  | _ => (.z, true)

/-- What a jump or call does with its target (R199, R200). -/
def jumpEffect : Op → Word → State → State
  | .jsr => fun a s => (pushWord (s.pc - 1) s).setPc a
  | _ => fun a s => s.setPc a

theorem execute_read {op : Op} (h : op.kind = .read) (l : Loc) (s : State) :
    execute op l s = withLoad l s fun v t => .done (readEffect op v t) l.crossing := by
  cases op <;> first | rfl | cases h

theorem execute_store {op : Op} (h : op.kind = .store) (l : Loc) (s : State) :
    execute op l s = withStore l (storedRegister op s) s fun t => .done t l.crossing := by
  cases op <;> first | rfl | cases h

theorem execute_modify {op : Op} (h : op.kind = .modify) (l : Loc) (s : State) :
    execute op l s = readModifyWrite l s (modifyEffect op) := by
  cases op <;> first | rfl | cases h

theorem execute_implied {op : Op} (h : op.kind = .implied) (l : Loc) (s : State) :
    execute op l s = .done (impliedEffect op s) l.crossing := by
  cases op <;> first | rfl | cases h

theorem execute_branch {op : Op} (h : op.kind = .branch) (l : Loc) (s : State) :
    execute op l s = branch (branchTest op).1 (branchTest op).2 l s := by
  cases op <;> first | rfl | cases h

theorem execute_target {op : Op} (h : op.kind = .jump ∨ op.kind = .call) (l : Loc) (s : State) :
    execute op l s = withTarget l fun a => .done (jumpEffect op a s) l.crossing := by
  cases op <;> first | rfl | (rcases h with h | h <;> cases h)

theorem keeps_readEffect (op : Op) (v : Byte) (t : State) : Keeps t (readEffect op v t) := by
  cases op <;> exact .of_fields rfl rfl rfl rfl rfl rfl

theorem keeps_modifyEffect (op : Op) (v : Byte) (t : State) : Keeps t (modifyEffect op v t).2 := by
  cases op <;> exact .of_fields rfl rfl rfl rfl rfl rfl

theorem keeps_impliedEffect (op : Op) (t : State) : Keeps t (impliedEffect op t) := by
  cases op
  case pha => exact keeps_push _ t
  case php => exact keeps_push _ t
  case brk => exact keeps_takeInterrupt _ _ _ t
  case rti => exact keeps_returnFromInterrupt t
  case rts => exact (keeps_popWord t).trans (keeps_setPc _ _)
  all_goals exact .of_fields rfl rfl rfl rfl rfl rfl

theorem keeps_jumpEffect (op : Op) (a : Word) (t : State) : Keeps t (jumpEffect op a t) := by
  cases op
  case jsr => exact (keeps_pushWord _ t).trans (keeps_setPc _ a)
  all_goals exact keeps_setPc t a

/-! ## The answer of `exec`, by kind -/

theorem exec_read_effect {i : Instr} (hk : i.op.kind = .read) (s : State) : exec i s =
    .next ((readEffect i.op (operandByte i s) (loaded i s)).addClk (cost i (operandLoc i s).crossing)) :=
  exec_read hk (execute_read hk) s

theorem exec_implied_effect {i : Instr} (hk : i.op.kind = .implied) (s : State) :
    exec i s = .next ((impliedEffect i.op s).addClk (cost i 0)) :=
  exec_implied hk (execute_implied hk) s

theorem exec_branch_effect {i : Instr} (hk : i.op.kind = .branch) (s : State) : ∃ o, i.operand = .rel o ∧
    exec i s = .next
      (if s.flag (branchTest i.op).1 = (branchTest i.op).2
        then (s.setPc (s.pc + sext o)).addClk (cost i (1 + bitNat (crosses (s.pc + sext o) s.pc)))
        else s.addClk (cost i 0)) := by
  obtain ⟨o, ho, hr⟩ := branch_resolve hk s
  refine ⟨o, ho, ?_⟩
  split <;> rename_i hw
  all_goals
    apply exec_done
    rw [execute_branch hk, operandLoc, hr]
    simp only [branch, hw, if_true, if_false]

theorem exec_target_effect {i : Instr} (hk : i.op.kind = .jump ∨ i.op.kind = .call) (s : State) :
    ∃ a c, operandLoc i s = .memLoc a c ∧ exec i s =
      .next ((jumpEffect i.op a (resolve i.operand s).2).addClk (cost i (operandLoc i s).crossing)) := by
  obtain ⟨a, c, hl⟩ := store_memLoc (.inr hk) s
  refine ⟨a, c, hl, ?_⟩
  apply exec_done
  rw [execute_target hk, hl]
  rfl

/-- Every instruction completes, from every state. -/
theorem exec_completes (i : Instr) (s : State) : ∃ u, CompletesFrom i s u := by
  have hc : ∀ l : Loc, l.crossing ≤ 2 := fun l => (crossing_le l).trans (by decide)
  cases hk : i.op.kind
  case read => exact ⟨_, _, hc _, exec_read_effect hk s, (keeps_loaded i s).trans (keeps_readEffect _ _ _)⟩
  case store =>
    obtain ⟨a, c, -, he⟩ := exec_store hk (execute_store hk) s
    exact ⟨_, _, hc _, he, (keeps_resolve _ s).trans (keeps_memWrite a _ _)⟩
  case modify =>
    have hl := (keeps_loaded i s).trans (keeps_modifyEffect i.op (operandByte i s) _)
    rcases exec_modify hk (execute_modify hk) s with ⟨-, -, he⟩ | ⟨a, c, -, -, he⟩
    · exact ⟨_, _, by decide, he, hl.trans (.of_fields rfl rfl rfl rfl rfl rfl)⟩
    · exact ⟨_, _, hc _, he, (hl.trans (keeps_memWrite a _ _)).trans (keeps_setZN _ _)⟩
  case branch =>
    obtain ⟨o, -, he⟩ := exec_branch_effect hk s
    split at he
    · exact ⟨_, _, by have := bitNat_lt (crosses (s.pc + sext o) s.pc); omega, he, keeps_setPc _ _⟩
    · exact ⟨_, _, by decide, he, .refl s⟩
  case jump =>
    obtain ⟨a, c, -, he⟩ := exec_target_effect (.inl hk) s
    exact ⟨_, _, hc _, he, (keeps_resolve _ s).trans (keeps_jumpEffect _ a _)⟩
  case call =>
    obtain ⟨a, c, -, he⟩ := exec_target_effect (.inr hk) s
    exact ⟨_, _, hc _, he, (keeps_resolve _ s).trans (keeps_jumpEffect _ a _)⟩
  case implied => exact ⟨_, _, by decide, exec_implied_effect hk s, keeps_impliedEffect _ s⟩

/-- Every instruction completes at the cost of 2 to 7 cycles, and keeps what only the environment, the step or a reset may
change. -/
theorem exec_next (i : Instr) (s : State) : ∃ e t, e ≤ 2 ∧ exec i s = .next t ∧ Completed i e s t ∧
    (Memory.wf s.mem = true → Memory.wf t.mem = true) := by
  obtain ⟨u, e, he, hx, hk⟩ := exec_completes i s
  exact ⟨e, _, he, hx, completed_addClk hk.clk hk.nmiPending hk.fault hk.irqLine hk.params, hk.wf⟩

end Sys2Proof.Machine
end

