-- ==== Sys2Proof/Laws/Step.lean ====
section
/-! SUPPORT. Everything a fetch, a step and a reset can do. -/

namespace Sys2Proof.Machine

/-! ## Fetch -/

/-- Everything one fetched byte changes (R112). -/
theorem fetch8_eq (s : State) : ∃ n, fetch8 s = (s.busByte s.pc,
    { s with pc := s.pc + 1, accesses := s.accesses ++ [.read s.pc (s.busByte s.pc)], deviceCount := n }) :=
  ⟨_, rfl⟩

theorem fetch8_of_peek {s : State} {v : Byte} (h : s.peek s.pc = some v) :
    fetch8 s = (v, { s with pc := s.pc + 1, accesses := s.accesses ++ [.read s.pc v] }) := by
  simp only [fetch8, memRead_of_peek h]
  rfl

/-- Everything `n` fetched bytes change (R112). -/
theorem fetchN_eq (n : Nat) : ∀ s : State, ∃ d, (fetchN n s).1.length = n ∧ (fetchN n s).2 =
    { s with
      pc := s.pc + BitVec.ofNat 16 n
      accesses := s.accesses ++ fetchAccesses s.pc (fetchN n s).1
      deviceCount := d } := by
  induction n with
  | zero => exact fun s => ⟨s.deviceCount, rfl, by simp [fetchN, fetchAccesses]⟩
  | succ n ih =>
    intro s
    obtain ⟨d, hl, hs⟩ := ih (fetch8 s).2
    obtain ⟨m, hf⟩ := fetch8_eq s
    refine ⟨d, by simp only [fetchN, List.length_cons, hl], ?_⟩
    have hp : s.pc + 1 + BitVec.ofNat 16 n = s.pc + BitVec.ofNat 16 (n + 1) := by
      apply BitVec.eq_of_toNat_eq
      simp only [BitVec.toNat_add, BitVec.toNat_ofNat, show (1 : Word).toNat = 1 from rfl]
      omega
    simp only [fetchN, hs]
    rw [hf] at *
    simp only [fetchAccesses, hp, List.append_assoc, List.cons_append, List.nil_append]

theorem keeps_fetchN (n : Nat) (s : State) : Keeps s (fetchN n s).2 := by
  obtain ⟨d, -, h⟩ := fetchN_eq n s
  rw [h]
  exact .of_fields rfl rfl rfl rfl rfl rfl

/-- The fetch of an opcode with no operation (R241). -/
theorem fetchInstr_illegal {s : State} (h : descriptor (s.busByte s.pc) = none) : ∃ n, fetchInstr s =
    .illegal { s with
      fault := some (.illegalOpcode (s.busByte s.pc) s.pc)
      accesses := s.accesses ++ [.read s.pc (s.busByte s.pc)]
      deviceCount := n } := by
  obtain ⟨n, hf⟩ := fetch8_eq s
  refine ⟨n, ?_⟩
  simp only [fetchInstr, hf, h]
  rfl

/-- The fetch of an instruction: its bytes one after the other, and nothing else (R108, R112). -/
theorem fetchInstr_instr {s : State} {d : Descriptor} (h : descriptor (s.busByte s.pc) = some d) :
    ∃ i, decode (fetchN (1 + d.mode.oplen) s).1 = .ok (i, []) ∧
      fetchInstr s = .instr i (fetchN (1 + d.mode.oplen) s).2 := by
  obtain ⟨n, hf⟩ := fetch8_eq s
  obtain ⟨m, hl, -⟩ := fetchN_eq d.mode.oplen (fetch8 s).2
  obtain ⟨i, hd, -⟩ := Laws.decode_fetched h _ hl
  refine ⟨i, ?_, ?_⟩
  · rw [Nat.add_comm]
    simpa only [fetchN, hf] using hd
  · rw [Nat.add_comm]
    rw [hf] at hd
    simp only [fetchInstr, hf, h, hd, fetchN]

/-! ## Step -/

theorem step_faulted {s : State} {r : Fault} (h : s.fault = some r) : step s = .fault r := by
  simp only [step, h]

theorem step_interrupt {s t : State} (h : s.fault = none) (hi : interruptStep s.beginStep = some t) :
    step s = .next t := by
  simp only [step, h, hi]

theorem step_fetch {s : State} (h : s.fault = none) (hi : interruptStep s.beginStep = none) :
    step s = runInstruction s.beginStep := by
  simp only [step, h, hi]

/-- An interrupt entry of a step, NMI before IRQ (R245 to R248). -/
theorem interruptStep_cases (s : State) :
    (s.nmiPending = true ∧ interruptStep s = some (interruptEntry nmiVector { s with nmiPending := false })) ∨
    (s.nmiPending = false ∧ s.irqLine = true ∧ s.flag .i = false ∧
      interruptStep s = some (interruptEntry irqVector s)) ∨
    (s.nmiPending = false ∧ (s.irqLine = false ∨ s.flag .i = true) ∧ interruptStep s = none) := by
  cases hn : s.nmiPending <;> cases hl : s.irqLine <;> cases hf : s.flag .i <;>
    simp [interruptStep, State.irqTaken, hn, hl, hf]

/-- What every interrupt entry keeps, but for the clock and the NMI latch. -/
theorem interruptStep_keeps {s t : State} (h : interruptStep s = some t) :
    t.clk = s.clk + s.params.intCycles ∧ t.fault = s.fault ∧ t.irqLine = s.irqLine ∧ t.params = s.params ∧
      t.nmiPending = false ∧ (Memory.wf s.mem = true → Memory.wf t.mem = true) := by
  rcases interruptStep_cases s with ⟨-, hi⟩ | ⟨hn, -, -, hi⟩ | ⟨-, -, hi⟩
  · rw [hi] at h
    injection h with h
    subst h
    have k := keeps_takeInterrupt nmiVector s.pc (s.p &&& 0xEF) { s with nmiPending := false }
    rw [interruptEntry_eq]
    exact ⟨by rw [addClk_clk, k.clk], by rw [addClk_fault, k.fault], by rw [addClk_irqLine, k.irqLine],
      by rw [addClk_params, k.params], by rw [addClk_nmiPending, k.nmiPending], by rw [addClk_mem]; exact k.wf⟩
  · rw [hi] at h
    injection h with h
    subst h
    have k := keeps_takeInterrupt irqVector s.pc (s.p &&& 0xEF) s
    rw [interruptEntry_eq]
    exact ⟨by rw [addClk_clk, k.clk], by rw [addClk_fault, k.fault], by rw [addClk_irqLine, k.irqLine],
      by rw [addClk_params, k.params], by rw [addClk_nmiPending, k.nmiPending, hn], by rw [addClk_mem]; exact k.wf⟩
  · rw [hi] at h
    cases h

/-- Everything a step of a core without fault can be: an interrupt entry, a completed instruction, or the record of an
illegal opcode. -/
theorem step_cases {s : State} (h : s.fault = none) :
    (∃ t, interruptStep s.beginStep = some t ∧ step s = .next t) ∨
    (interruptStep s.beginStep = none ∧ ∃ i n, decode (fetchN n s.beginStep).1 = .ok (i, []) ∧
      step s = exec i (fetchN n s.beginStep).2) ∨
    (interruptStep s.beginStep = none ∧ descriptor (s.busByte s.pc) = none ∧ ∃ n, step s =
      .next { s with
        fault := some (.illegalOpcode (s.busByte s.pc) s.pc)
        accesses := [.read s.pc (s.busByte s.pc)]
        deviceCount := n }) := by
  cases hi : interruptStep s.beginStep with
  | some t => exact .inl ⟨t, rfl, step_interrupt h hi⟩
  | none =>
    refine .inr ?_
    have hb : s.beginStep.busByte s.beginStep.pc = s.busByte s.pc := rfl
    cases hd : descriptor (s.busByte s.pc) with
    | some d =>
      obtain ⟨i, hdec, hf⟩ := fetchInstr_instr (s := s.beginStep) hd
      exact .inl ⟨rfl, i, _, hdec, by rw [step_fetch h hi, runInstruction, hf]⟩
    | none =>
      obtain ⟨n, hf⟩ := fetchInstr_illegal (s := s.beginStep) hd
      exact .inr ⟨rfl, rfl, n, by rw [step_fetch h hi, runInstruction, hf]; rfl⟩

/-! ## Reset -/

/-- The state after reset is power-on with the default parameters and nothing stored (Machine/State.lean). -/
theorem reset_eq_powerOn : State.reset = powerOn Params.default [] := by decide

theorem reset_wf : Memory.wf State.reset.mem = true := rfl

/-- Everything RESET writes (R270). -/
theorem applyReset_eq (s : State) : ∃ n, applyReset s =
    { s with
      a := s.params.aReset
      x := s.params.xReset
      y := s.params.yReset
      sp := 0xFD
      p := s.params.pReset
      clk := 0
      nmiPending := false
      fault := none
      pc := (read16 resetVector s).1
      accesses := [.read resetVector (lo (read16 resetVector s).1), .read (resetVector + 1) (hi (read16 resetVector s).1)]
      deviceCount := n } := by
  have hv : (read16 resetVector (resetRegisters s)).1 = (read16 resetVector s).1 :=
    readPair_congr rfl rfl rfl fun _ => rfl
  obtain ⟨n, hr⟩ := readPair_eq resetVector (resetVector + 1) (resetRegisters s)
  refine ⟨n, ?_⟩
  have e : applyReset s = (read16 resetVector (resetRegisters s)).2.setPc (read16 resetVector (resetRegisters s)).1 := rfl
  rw [e, hv]
  rw [show readPair resetVector (resetVector + 1) (resetRegisters s) = read16 resetVector (resetRegisters s) from rfl] at hr
  rw [hr, hv]
  rfl

end Sys2Proof.Machine
end

