-- ==== Sys2Proof/Tests/Slice0.lean ====
section
/-! SUPPORT. The model's own tests: ill-formed descriptors, every opcode's word, vectors of spec/95_test_vectors.md, and a
witness for every statement that has hypotheses. -/

namespace Sys2Proof.Machine.Tests

open Sys2Proof Sys2Proof.Machine

/-! ## Ill-formed descriptors, one for each check of `Descriptor.wf` -/

theorem test_wf_rejects_store_to_immediate : Descriptor.wf ⟨.sta, .imm, 2, false⟩ = false := by decide
theorem test_wf_rejects_load_through_relative : Descriptor.wf ⟨.lda, .rel, 2, false⟩ = false := by decide
theorem test_wf_rejects_load_through_implied : Descriptor.wf ⟨.lda, .imp, 2, false⟩ = false := by decide
theorem test_wf_rejects_load_through_indirect : Descriptor.wf ⟨.lda, .ind, 5, false⟩ = false := by decide
theorem test_wf_rejects_shift_of_immediate : Descriptor.wf ⟨.asl, .imm, 2, false⟩ = false := by decide
theorem test_wf_rejects_branch_to_absolute : Descriptor.wf ⟨.bne, .abs, 2, true⟩ = false := by decide
theorem test_wf_rejects_jump_to_indexed : Descriptor.wf ⟨.jmp, .abx, 3, false⟩ = false := by decide
theorem test_wf_rejects_call_through_indirect : Descriptor.wf ⟨.jsr, .ind, 6, false⟩ = false := by decide
theorem test_wf_rejects_operand_of_implied : Descriptor.wf ⟨.clc, .zp, 2, false⟩ = false := by decide
theorem test_wf_rejects_one_cycle : Descriptor.wf ⟨.nop, .imp, 1, false⟩ = false := by decide
theorem test_wf_rejects_eight_cycles : Descriptor.wf ⟨.asl, .abx, 8, false⟩ = false := by decide
theorem test_wf_rejects_extra_cycle_of_store : Descriptor.wf ⟨.sta, .abx, 5, true⟩ = false := by decide
theorem test_wf_rejects_branch_without_extra_cycle : Descriptor.wf ⟨.bne, .rel, 2, false⟩ = false := by decide

/-! ## Words written out from the table of 30_encoding.md R74, every row, by high nibble -/

theorem test_decode_row0 :
    decode [0x00] = .ok (.brk, []) ∧ decode [0x01, 0x34] = .ok (.oraIzx 0x34, []) ∧
    decode [0x05, 0x34] = .ok (.oraZp 0x34, []) ∧ decode [0x06, 0x34] = .ok (.aslZp 0x34, []) ∧
    decode [0x08] = .ok (.php, []) ∧ decode [0x09, 0x34] = .ok (.oraImm 0x34, []) ∧
    decode [0x0A] = .ok (.aslAcc, []) ∧ decode [0x0D, 0x34, 0x12] = .ok (.oraAbs 0x1234, []) ∧
    decode [0x0E, 0x34, 0x12] = .ok (.aslAbs 0x1234, []) := by
  refine ⟨rfl, rfl, rfl, rfl, rfl, rfl, rfl, rfl, rfl⟩

theorem test_decode_row1 :
    decode [0x10, 0x34] = .ok (.bpl 0x34, []) ∧ decode [0x11, 0x34] = .ok (.oraIzy 0x34, []) ∧
    decode [0x15, 0x34] = .ok (.oraZpx 0x34, []) ∧ decode [0x16, 0x34] = .ok (.aslZpx 0x34, []) ∧
    decode [0x18] = .ok (.clc, []) ∧ decode [0x19, 0x34, 0x12] = .ok (.oraAby 0x1234, []) ∧
    decode [0x1D, 0x34, 0x12] = .ok (.oraAbx 0x1234, []) ∧ decode [0x1E, 0x34, 0x12] = .ok (.aslAbx 0x1234, []) := by
  refine ⟨rfl, rfl, rfl, rfl, rfl, rfl, rfl, rfl⟩

theorem test_decode_row2 :
    decode [0x20, 0x34, 0x12] = .ok (.jsr 0x1234, []) ∧ decode [0x21, 0x34] = .ok (.andIzx 0x34, []) ∧
    decode [0x24, 0x34] = .ok (.bitZp 0x34, []) ∧ decode [0x25, 0x34] = .ok (.andZp 0x34, []) ∧
    decode [0x26, 0x34] = .ok (.rolZp 0x34, []) ∧ decode [0x28] = .ok (.plp, []) ∧
    decode [0x29, 0x34] = .ok (.andImm 0x34, []) ∧ decode [0x2A] = .ok (.rolAcc, []) ∧
    decode [0x2C, 0x34, 0x12] = .ok (.bitAbs 0x1234, []) ∧ decode [0x2D, 0x34, 0x12] = .ok (.andAbs 0x1234, []) ∧
    decode [0x2E, 0x34, 0x12] = .ok (.rolAbs 0x1234, []) := by
  refine ⟨rfl, rfl, rfl, rfl, rfl, rfl, rfl, rfl, rfl, rfl, rfl⟩

theorem test_decode_row3 :
    decode [0x30, 0x34] = .ok (.bmi 0x34, []) ∧ decode [0x31, 0x34] = .ok (.andIzy 0x34, []) ∧
    decode [0x35, 0x34] = .ok (.andZpx 0x34, []) ∧ decode [0x36, 0x34] = .ok (.rolZpx 0x34, []) ∧
    decode [0x38] = .ok (.sec, []) ∧ decode [0x39, 0x34, 0x12] = .ok (.andAby 0x1234, []) ∧
    decode [0x3D, 0x34, 0x12] = .ok (.andAbx 0x1234, []) ∧ decode [0x3E, 0x34, 0x12] = .ok (.rolAbx 0x1234, []) := by
  refine ⟨rfl, rfl, rfl, rfl, rfl, rfl, rfl, rfl⟩

theorem test_decode_row4 :
    decode [0x40] = .ok (.rti, []) ∧ decode [0x41, 0x34] = .ok (.eorIzx 0x34, []) ∧
    decode [0x45, 0x34] = .ok (.eorZp 0x34, []) ∧ decode [0x46, 0x34] = .ok (.lsrZp 0x34, []) ∧
    decode [0x48] = .ok (.pha, []) ∧ decode [0x49, 0x34] = .ok (.eorImm 0x34, []) ∧
    decode [0x4A] = .ok (.lsrAcc, []) ∧ decode [0x4C, 0x34, 0x12] = .ok (.jmpAbs 0x1234, []) ∧
    decode [0x4D, 0x34, 0x12] = .ok (.eorAbs 0x1234, []) ∧ decode [0x4E, 0x34, 0x12] = .ok (.lsrAbs 0x1234, []) := by
  refine ⟨rfl, rfl, rfl, rfl, rfl, rfl, rfl, rfl, rfl, rfl⟩

theorem test_decode_row5 :
    decode [0x50, 0x34] = .ok (.bvc 0x34, []) ∧ decode [0x51, 0x34] = .ok (.eorIzy 0x34, []) ∧
    decode [0x55, 0x34] = .ok (.eorZpx 0x34, []) ∧ decode [0x56, 0x34] = .ok (.lsrZpx 0x34, []) ∧
    decode [0x58] = .ok (.cli, []) ∧ decode [0x59, 0x34, 0x12] = .ok (.eorAby 0x1234, []) ∧
    decode [0x5D, 0x34, 0x12] = .ok (.eorAbx 0x1234, []) ∧ decode [0x5E, 0x34, 0x12] = .ok (.lsrAbx 0x1234, []) := by
  refine ⟨rfl, rfl, rfl, rfl, rfl, rfl, rfl, rfl⟩

theorem test_decode_row6 :
    decode [0x60] = .ok (.rts, []) ∧ decode [0x61, 0x34] = .ok (.adcIzx 0x34, []) ∧
    decode [0x65, 0x34] = .ok (.adcZp 0x34, []) ∧ decode [0x66, 0x34] = .ok (.rorZp 0x34, []) ∧
    decode [0x68] = .ok (.pla, []) ∧ decode [0x69, 0x34] = .ok (.adcImm 0x34, []) ∧
    decode [0x6A] = .ok (.rorAcc, []) ∧ decode [0x6C, 0x34, 0x12] = .ok (.jmpInd 0x1234, []) ∧
    decode [0x6D, 0x34, 0x12] = .ok (.adcAbs 0x1234, []) ∧ decode [0x6E, 0x34, 0x12] = .ok (.rorAbs 0x1234, []) := by
  refine ⟨rfl, rfl, rfl, rfl, rfl, rfl, rfl, rfl, rfl, rfl⟩

theorem test_decode_row7 :
    decode [0x70, 0x34] = .ok (.bvs 0x34, []) ∧ decode [0x71, 0x34] = .ok (.adcIzy 0x34, []) ∧
    decode [0x75, 0x34] = .ok (.adcZpx 0x34, []) ∧ decode [0x76, 0x34] = .ok (.rorZpx 0x34, []) ∧
    decode [0x78] = .ok (.sei, []) ∧ decode [0x79, 0x34, 0x12] = .ok (.adcAby 0x1234, []) ∧
    decode [0x7D, 0x34, 0x12] = .ok (.adcAbx 0x1234, []) ∧ decode [0x7E, 0x34, 0x12] = .ok (.rorAbx 0x1234, []) := by
  refine ⟨rfl, rfl, rfl, rfl, rfl, rfl, rfl, rfl⟩

theorem test_decode_row8 :
    decode [0x81, 0x34] = .ok (.staIzx 0x34, []) ∧ decode [0x84, 0x34] = .ok (.styZp 0x34, []) ∧
    decode [0x85, 0x34] = .ok (.staZp 0x34, []) ∧ decode [0x86, 0x34] = .ok (.stxZp 0x34, []) ∧
    decode [0x88] = .ok (.dey, []) ∧ decode [0x8A] = .ok (.txa, []) ∧
    decode [0x8C, 0x34, 0x12] = .ok (.styAbs 0x1234, []) ∧ decode [0x8D, 0x34, 0x12] = .ok (.staAbs 0x1234, []) ∧
    decode [0x8E, 0x34, 0x12] = .ok (.stxAbs 0x1234, []) := by
  refine ⟨rfl, rfl, rfl, rfl, rfl, rfl, rfl, rfl, rfl⟩

theorem test_decode_row9 :
    decode [0x90, 0x34] = .ok (.bcc 0x34, []) ∧ decode [0x91, 0x34] = .ok (.staIzy 0x34, []) ∧
    decode [0x94, 0x34] = .ok (.styZpx 0x34, []) ∧ decode [0x95, 0x34] = .ok (.staZpx 0x34, []) ∧
    decode [0x96, 0x34] = .ok (.stxZpy 0x34, []) ∧ decode [0x98] = .ok (.tya, []) ∧
    decode [0x99, 0x34, 0x12] = .ok (.staAby 0x1234, []) ∧ decode [0x9A] = .ok (.txs, []) ∧
    decode [0x9D, 0x34, 0x12] = .ok (.staAbx 0x1234, []) := by
  refine ⟨rfl, rfl, rfl, rfl, rfl, rfl, rfl, rfl, rfl⟩

theorem test_decode_rowA :
    decode [0xA0, 0x34] = .ok (.ldyImm 0x34, []) ∧ decode [0xA1, 0x34] = .ok (.ldaIzx 0x34, []) ∧
    decode [0xA2, 0x34] = .ok (.ldxImm 0x34, []) ∧ decode [0xA4, 0x34] = .ok (.ldyZp 0x34, []) ∧
    decode [0xA5, 0x34] = .ok (.ldaZp 0x34, []) ∧ decode [0xA6, 0x34] = .ok (.ldxZp 0x34, []) ∧
    decode [0xA8] = .ok (.tay, []) ∧ decode [0xA9, 0x34] = .ok (.ldaImm 0x34, []) ∧
    decode [0xAA] = .ok (.tax, []) ∧ decode [0xAC, 0x34, 0x12] = .ok (.ldyAbs 0x1234, []) ∧
    decode [0xAD, 0x34, 0x12] = .ok (.ldaAbs 0x1234, []) ∧ decode [0xAE, 0x34, 0x12] = .ok (.ldxAbs 0x1234, []) := by
  refine ⟨rfl, rfl, rfl, rfl, rfl, rfl, rfl, rfl, rfl, rfl, rfl, rfl⟩

theorem test_decode_rowB :
    decode [0xB0, 0x34] = .ok (.bcs 0x34, []) ∧ decode [0xB1, 0x34] = .ok (.ldaIzy 0x34, []) ∧
    decode [0xB4, 0x34] = .ok (.ldyZpx 0x34, []) ∧ decode [0xB5, 0x34] = .ok (.ldaZpx 0x34, []) ∧
    decode [0xB6, 0x34] = .ok (.ldxZpy 0x34, []) ∧ decode [0xB8] = .ok (.clv, []) ∧
    decode [0xB9, 0x34, 0x12] = .ok (.ldaAby 0x1234, []) ∧ decode [0xBA] = .ok (.tsx, []) ∧
    decode [0xBC, 0x34, 0x12] = .ok (.ldyAbx 0x1234, []) ∧ decode [0xBD, 0x34, 0x12] = .ok (.ldaAbx 0x1234, []) ∧
    decode [0xBE, 0x34, 0x12] = .ok (.ldxAby 0x1234, []) := by
  refine ⟨rfl, rfl, rfl, rfl, rfl, rfl, rfl, rfl, rfl, rfl, rfl⟩

theorem test_decode_rowC :
    decode [0xC0, 0x34] = .ok (.cpyImm 0x34, []) ∧ decode [0xC1, 0x34] = .ok (.cmpIzx 0x34, []) ∧
    decode [0xC4, 0x34] = .ok (.cpyZp 0x34, []) ∧ decode [0xC5, 0x34] = .ok (.cmpZp 0x34, []) ∧
    decode [0xC6, 0x34] = .ok (.decZp 0x34, []) ∧ decode [0xC8] = .ok (.iny, []) ∧
    decode [0xC9, 0x34] = .ok (.cmpImm 0x34, []) ∧ decode [0xCA] = .ok (.dex, []) ∧
    decode [0xCC, 0x34, 0x12] = .ok (.cpyAbs 0x1234, []) ∧ decode [0xCD, 0x34, 0x12] = .ok (.cmpAbs 0x1234, []) ∧
    decode [0xCE, 0x34, 0x12] = .ok (.decAbs 0x1234, []) := by
  refine ⟨rfl, rfl, rfl, rfl, rfl, rfl, rfl, rfl, rfl, rfl, rfl⟩

theorem test_decode_rowD :
    decode [0xD0, 0x34] = .ok (.bne 0x34, []) ∧ decode [0xD1, 0x34] = .ok (.cmpIzy 0x34, []) ∧
    decode [0xD5, 0x34] = .ok (.cmpZpx 0x34, []) ∧ decode [0xD6, 0x34] = .ok (.decZpx 0x34, []) ∧
    decode [0xD8] = .ok (.cld, []) ∧ decode [0xD9, 0x34, 0x12] = .ok (.cmpAby 0x1234, []) ∧
    decode [0xDD, 0x34, 0x12] = .ok (.cmpAbx 0x1234, []) ∧ decode [0xDE, 0x34, 0x12] = .ok (.decAbx 0x1234, []) := by
  refine ⟨rfl, rfl, rfl, rfl, rfl, rfl, rfl, rfl⟩

theorem test_decode_rowE :
    decode [0xE0, 0x34] = .ok (.cpxImm 0x34, []) ∧ decode [0xE1, 0x34] = .ok (.sbcIzx 0x34, []) ∧
    decode [0xE4, 0x34] = .ok (.cpxZp 0x34, []) ∧ decode [0xE5, 0x34] = .ok (.sbcZp 0x34, []) ∧
    decode [0xE6, 0x34] = .ok (.incZp 0x34, []) ∧ decode [0xE8] = .ok (.inx, []) ∧
    decode [0xE9, 0x34] = .ok (.sbcImm 0x34, []) ∧ decode [0xEA] = .ok (.nop, []) ∧
    decode [0xEC, 0x34, 0x12] = .ok (.cpxAbs 0x1234, []) ∧ decode [0xED, 0x34, 0x12] = .ok (.sbcAbs 0x1234, []) ∧
    decode [0xEE, 0x34, 0x12] = .ok (.incAbs 0x1234, []) := by
  refine ⟨rfl, rfl, rfl, rfl, rfl, rfl, rfl, rfl, rfl, rfl, rfl⟩

theorem test_decode_rowF :
    decode [0xF0, 0x34] = .ok (.beq 0x34, []) ∧ decode [0xF1, 0x34] = .ok (.sbcIzy 0x34, []) ∧
    decode [0xF5, 0x34] = .ok (.sbcZpx 0x34, []) ∧ decode [0xF6, 0x34] = .ok (.incZpx 0x34, []) ∧
    decode [0xF8] = .ok (.sed, []) ∧ decode [0xF9, 0x34, 0x12] = .ok (.sbcAby 0x1234, []) ∧
    decode [0xFD, 0x34, 0x12] = .ok (.sbcAbx 0x1234, []) ∧ decode [0xFE, 0x34, 0x12] = .ok (.incAbx 0x1234, []) := by
  refine ⟨rfl, rfl, rfl, rfl, rfl, rfl, rfl, rfl⟩

theorem test_decode_rejects_illegal : decode [0x02, 0x34, 0x12] = .error (.illegalOpcode 0x02) := rfl
theorem test_decode_rejects_truncated : decode [0xAD, 0x34] = .error (.truncated 0xAD) := rfl
theorem test_decode_rejects_empty : decode [] = .error .empty := rfl
theorem test_decodeTableWord : decodeTableWord 24 0x1234BD = some (.ldaAbx 0x1234) := rfl
theorem test_withFetchWord : step (State.reset.withFetchWord 16 0x42A9) =
    .next { State.reset with
      a := 0x42, pc := 2, p := 0x24, clk := 2, mem := [(0, 0xA9), (1, 0x42)], accesses := [.read 0 0xA9, .read 1 0x42] } :=
  rfl

/-! ## One step each, from spec/95_test_vectors.md (its ids are the names) -/

/-- A state at an instruction boundary with the conventions of 95_test_vectors.md. -/
def vector (a x y sp : Byte) (pc : Word) (p : Byte) (code : List Byte) (mem : List (Word × Byte)) : State :=
  mem.foldl (fun s c => s.place c.1 c.2)
    (({ State.reset with a := a, x := x, y := y, sp := sp, pc := pc, p := p }).placeAll pc code)

/-- One step leads to these values of A, X, Y, SP, PC, P and CLK, with these bus accesses in this order. -/
def leadsTo (s : State) (a x y sp : Byte) (pc : Word) (p : Byte) (clk : Nat) (accesses : List BusAccess) : Bool :=
  match step s with
  | .next t =>
    t.a == a && t.x == x && t.y == y && t.sp == sp && t.pc == pc && t.p == p && t.clk == clk && t.accesses == accesses
  | .fault _ | .refused _ => false

theorem test_LS3 : leadsTo (vector 0x00 0x02 0x00 0xFD 0x8000 0x24 [0xB5, 0xFF]
    [(0x0001, 0x77), (0x0101, 0x99)])
    0x77 0x02 0x00 0xFD 0x8002 0x24 4
    [.read 0x8000 0xB5, .read 0x8001 0xFF, .read 0x0001 0x77] = true := by decide
theorem test_LS4 : leadsTo (vector 0x00 0x20 0x00 0xFD 0x8000 0x24 [0xBD, 0xF0, 0x12]
    [(0x1310, 0x5A)])
    0x5A 0x20 0x00 0xFD 0x8003 0x24 5
    [.read 0x8000 0xBD, .read 0x8001 0xF0, .read 0x8002 0x12, .read 0x1310 0x5A] = true := by decide
theorem test_LS5 : leadsTo (vector 0x00 0x0F 0x00 0xFD 0x8000 0x24 [0xBD, 0xF0, 0x12]
    [(0x12FF, 0x5B)])
    0x5B 0x0F 0x00 0xFD 0x8003 0x24 4
    [.read 0x8000 0xBD, .read 0x8001 0xF0, .read 0x8002 0x12, .read 0x12FF 0x5B] = true := by decide
theorem test_LS7 : leadsTo (vector 0x42 0x0F 0x00 0xFD 0x8000 0x24 [0x9D, 0xF0, 0x12]
    [])
    0x42 0x0F 0x00 0xFD 0x8003 0x24 5
    [.read 0x8000 0x9D, .read 0x8001 0xF0, .read 0x8002 0x12, .write 0x12FF 0x42] = true := by decide
theorem test_LS8 : leadsTo (vector 0x00 0x01 0x00 0xFD 0x8000 0x24 [0xA1, 0xFE]
    [(0x00FF, 0x34), (0x0000, 0x12), (0x1234, 0xAB), (0x0100, 0x99)])
    0xAB 0x01 0x00 0xFD 0x8002 0xA4 6
    [.read 0x8000 0xA1, .read 0x8001 0xFE, .read 0x00FF 0x34, .read 0x0000 0x12, .read 0x1234 0xAB] = true := by decide
theorem test_LS9 : leadsTo (vector 0x00 0x00 0x10 0xFD 0x8000 0x24 [0xB1, 0xFF]
    [(0x00FF, 0xF0), (0x0000, 0x12), (0x1300, 0xCD)])
    0xCD 0x00 0x10 0xFD 0x8002 0xA4 6
    [.read 0x8000 0xB1, .read 0x8001 0xFF, .read 0x00FF 0xF0, .read 0x0000 0x12, .read 0x1300 0xCD] = true := by decide
theorem test_LS11 : leadsTo (vector 0x99 0x00 0x10 0xFD 0x8000 0x24 [0x91, 0x86]
    [(0x0086, 0xF8), (0x0087, 0x40)])
    0x99 0x00 0x10 0xFD 0x8002 0x24 6
    [.read 0x8000 0x91, .read 0x8001 0x86, .read 0x0086 0xF8, .read 0x0087 0x40, .write 0x4108 0x99] = true := by decide
theorem test_LS12 : leadsTo (vector 0x00 0x00 0x20 0xFD 0x8000 0x24 [0xB6, 0xF0]
    [(0x0010, 0x80)])
    0x00 0x80 0x20 0xFD 0x8002 0xA4 4
    [.read 0x8000 0xB6, .read 0x8001 0xF0, .read 0x0010 0x80] = true := by decide
theorem test_LS13 : leadsTo (vector 0x00 0x00 0x01 0xFD 0x8000 0x24 [0xBE, 0xFF, 0xFF]
    [(0x0000, 0x07)])
    0x00 0x07 0x01 0xFD 0x8003 0x24 5
    [.read 0x8000 0xBE, .read 0x8001 0xFF, .read 0x8002 0xFF, .read 0x0000 0x07] = true := by decide
theorem test_LS14 : leadsTo (vector 0x00 0x00 0x00 0xFD 0x8000 0xA4 [0x86, 0x10]
    [])
    0x00 0x00 0x00 0xFD 0x8002 0xA4 3
    [.read 0x8000 0x86, .read 0x8001 0x10, .write 0x0010 0x00] = true := by decide
theorem test_LS16 : leadsTo (vector 0x33 0x00 0x00 0xFD 0x8000 0x24 [0x98]
    [])
    0x00 0x00 0x00 0xFD 0x8001 0x26 2
    [.read 0x8000 0x98] = true := by decide
theorem test_AR1 : leadsTo (vector 0x50 0x00 0x00 0xFD 0x8000 0x24 [0x69, 0x50]
    [])
    0xA0 0x00 0x00 0xFD 0x8002 0xE4 2
    [.read 0x8000 0x69, .read 0x8001 0x50] = true := by decide
theorem test_AR5 : leadsTo (vector 0x90 0x00 0x00 0xFD 0x8000 0x24 [0x69, 0x90]
    [])
    0x20 0x00 0x00 0xFD 0x8002 0x65 2
    [.read 0x8000 0x69, .read 0x8001 0x90] = true := by decide
theorem test_AR8 : leadsTo (vector 0x09 0x00 0x00 0xFD 0x8000 0x2C [0x69, 0x09]
    [])
    0x12 0x00 0x00 0xFD 0x8002 0x2C 2
    [.read 0x8000 0x69, .read 0x8001 0x09] = true := by decide
theorem test_AR10 : leadsTo (vector 0x00 0x00 0x00 0xFD 0x8000 0x24 [0xE9, 0x01]
    [])
    0xFE 0x00 0x00 0xFD 0x8002 0xA4 2
    [.read 0x8000 0xE9, .read 0x8001 0x01] = true := by decide
theorem test_AR12 : leadsTo (vector 0x7F 0x00 0x00 0xFD 0x8000 0x25 [0xE9, 0xFF]
    [])
    0x80 0x00 0x00 0xFD 0x8002 0xE4 2
    [.read 0x8000 0xE9, .read 0x8001 0xFF] = true := by decide
theorem test_AR15 : leadsTo (vector 0x00 0x00 0x00 0xFD 0x8000 0x24 [0xC9, 0x01]
    [])
    0x00 0x00 0x00 0xFD 0x8002 0xA4 2
    [.read 0x8000 0xC9, .read 0x8001 0x01] = true := by decide
theorem test_AR18 : leadsTo (vector 0x00 0x00 0x00 0xFD 0x8000 0x24 [0xE0, 0xFF]
    [])
    0x00 0x00 0x00 0xFD 0x8002 0x24 2
    [.read 0x8000 0xE0, .read 0x8001 0xFF] = true := by decide
theorem test_AR19 : leadsTo (vector 0x00 0x00 0x20 0xFD 0x8000 0x24 [0xC4, 0x10]
    [(0x0010, 0x10)])
    0x00 0x00 0x20 0xFD 0x8002 0x25 3
    [.read 0x8000 0xC4, .read 0x8001 0x10, .read 0x0010 0x10] = true := by decide
theorem test_AR20 : leadsTo (vector 0x01 0x01 0x00 0xFD 0x8000 0x24 [0x7D, 0xFF, 0x00]
    [(0x0100, 0x01)])
    0x02 0x01 0x00 0xFD 0x8003 0x24 5
    [.read 0x8000 0x7D, .read 0x8001 0xFF, .read 0x8002 0x00, .read 0x0100 0x01] = true := by decide
theorem test_LG1 : leadsTo (vector 0xF0 0x00 0x00 0xFD 0x8000 0x24 [0x29, 0x0F]
    [])
    0x00 0x00 0x00 0xFD 0x8002 0x26 2
    [.read 0x8000 0x29, .read 0x8001 0x0F] = true := by decide
theorem test_LG2 : leadsTo (vector 0x01 0x00 0x00 0xFD 0x8000 0x24 [0x09, 0x80]
    [])
    0x81 0x00 0x00 0xFD 0x8002 0xA4 2
    [.read 0x8000 0x09, .read 0x8001 0x80] = true := by decide
theorem test_LG4 : leadsTo (vector 0x0F 0x00 0x00 0xFD 0x8000 0x65 [0x49, 0xFF]
    [])
    0xF0 0x00 0x00 0xFD 0x8002 0xE5 2
    [.read 0x8000 0x49, .read 0x8001 0xFF] = true := by decide
theorem test_LG5 : leadsTo (vector 0x01 0x00 0x00 0xFD 0x8000 0x24 [0x24, 0x10]
    [(0x0010, 0xC0)])
    0x01 0x00 0x00 0xFD 0x8002 0xE6 3
    [.read 0x8000 0x24, .read 0x8001 0x10, .read 0x0010 0xC0] = true := by decide
theorem test_LG8 : leadsTo (vector 0x80 0x00 0x00 0xFD 0x8000 0x24 [0x0A]
    [])
    0x00 0x00 0x00 0xFD 0x8001 0x27 2
    [.read 0x8000 0x0A] = true := by decide
theorem test_LG11 : leadsTo (vector 0x80 0x00 0x00 0xFD 0x8000 0xA5 [0x4A]
    [])
    0x40 0x00 0x00 0xFD 0x8001 0x24 2
    [.read 0x8000 0x4A] = true := by decide
theorem test_LG12 : leadsTo (vector 0x80 0x00 0x00 0xFD 0x8000 0x25 [0x2A]
    [])
    0x01 0x00 0x00 0xFD 0x8001 0x25 2
    [.read 0x8000 0x2A] = true := by decide
theorem test_LG15 : leadsTo (vector 0x00 0x00 0x00 0xFD 0x8000 0x25 [0x6A]
    [])
    0x80 0x00 0x00 0xFD 0x8001 0xA4 2
    [.read 0x8000 0x6A] = true := by decide
theorem test_LG17 : leadsTo (vector 0x00 0x01 0x00 0xFD 0x8000 0x25 [0x7E, 0xFF, 0x02]
    [(0x0300, 0x03)])
    0x00 0x01 0x00 0xFD 0x8003 0xA5 7
    [.read 0x8000 0x7E, .read 0x8001 0xFF, .read 0x8002 0x02, .read 0x0300 0x03, .write 0x0300 0x81] = true := by decide
theorem test_LG19 : leadsTo (vector 0x00 0x01 0x00 0xFD 0x8000 0x25 [0x36, 0xFF]
    [(0x0000, 0x7F)])
    0x00 0x01 0x00 0xFD 0x8002 0xA4 6
    [.read 0x8000 0x36, .read 0x8001 0xFF, .read 0x0000 0x7F, .write 0x0000 0xFF] = true := by decide
theorem test_ID1 : leadsTo (vector 0x00 0x00 0x00 0xFD 0x8000 0x24 [0xE6, 0x10]
    [(0x0010, 0xFF)])
    0x00 0x00 0x00 0xFD 0x8002 0x26 5
    [.read 0x8000 0xE6, .read 0x8001 0x10, .read 0x0010 0xFF, .write 0x0010 0x00] = true := by decide
theorem test_ID2 : leadsTo (vector 0x00 0x00 0x00 0xFD 0x8000 0x24 [0xC6, 0x10]
    [(0x0010, 0x00)])
    0x00 0x00 0x00 0xFD 0x8002 0xA4 5
    [.read 0x8000 0xC6, .read 0x8001 0x10, .read 0x0010 0x00, .write 0x0010 0xFF] = true := by decide
theorem test_ID3 : leadsTo (vector 0x00 0xFF 0x00 0xFD 0x8000 0x24 [0xE8]
    [])
    0x00 0x00 0x00 0xFD 0x8001 0x26 2
    [.read 0x8000 0xE8] = true := by decide
theorem test_ID4 : leadsTo (vector 0x00 0x00 0x00 0xFD 0x8000 0x24 [0xCA]
    [])
    0x00 0xFF 0x00 0xFD 0x8001 0xA4 2
    [.read 0x8000 0xCA] = true := by decide
theorem test_ID5 : leadsTo (vector 0x00 0x00 0x7F 0xFD 0x8000 0x24 [0xC8]
    [])
    0x00 0x00 0x80 0xFD 0x8001 0xA4 2
    [.read 0x8000 0xC8] = true := by decide
theorem test_ID6 : leadsTo (vector 0x00 0x00 0x01 0xFD 0x8000 0xE5 [0x88]
    [])
    0x00 0x00 0x00 0xFD 0x8001 0x67 2
    [.read 0x8000 0x88] = true := by decide
theorem test_BJ1 : leadsTo (vector 0x00 0x00 0x00 0xFD 0x8005 0x24 [0xD0, 0xFB]
    [])
    0x00 0x00 0x00 0xFD 0x8002 0x24 3
    [.read 0x8005 0xD0, .read 0x8006 0xFB] = true := by decide
theorem test_BJ2 : leadsTo (vector 0x00 0x00 0x00 0xFD 0x8005 0x26 [0xD0, 0xFB]
    [])
    0x00 0x00 0x00 0xFD 0x8007 0x26 2
    [.read 0x8005 0xD0, .read 0x8006 0xFB] = true := by decide
theorem test_BJ6 : leadsTo (vector 0x00 0x00 0x00 0xFD 0x8000 0xA4 [0x30, 0x80]
    [])
    0x00 0x00 0x00 0xFD 0x7F82 0xA4 4
    [.read 0x8000 0x30, .read 0x8001 0x80] = true := by decide
theorem test_BJ8 : leadsTo (vector 0x00 0x00 0x00 0xFD 0xFFF0 0x25 [0xB0, 0x10]
    [])
    0x00 0x00 0x00 0xFD 0x0002 0x25 4
    [.read 0xFFF0 0xB0, .read 0xFFF1 0x10] = true := by decide
theorem test_BJ12 : leadsTo (vector 0x00 0x00 0x00 0xFD 0x8000 0x24 [0x6C, 0xFF, 0x02]
    [(0x02FF, 0x34), (0x0200, 0x12), (0x0300, 0x56)])
    0x00 0x00 0x00 0xFD 0x1234 0x24 5
    [.read 0x8000 0x6C, .read 0x8001 0xFF, .read 0x8002 0x02, .read 0x02FF 0x34, .read 0x0200 0x12] = true := by decide
theorem test_BJ15 : leadsTo (vector 0x00 0x00 0x00 0x00 0x8000 0x24 [0x20, 0x00, 0x90]
    [])
    0x00 0x00 0x00 0xFE 0x9000 0x24 6
    [.read 0x8000 0x20, .read 0x8001 0x00, .read 0x8002 0x90, .write 0x0100 0x80, .write 0x01FF 0x02] = true := by decide
theorem test_BJ17 : leadsTo (vector 0x00 0x00 0x00 0xFD 0x9000 0x24 [0x60]
    [(0x01FE, 0xFF), (0x01FF, 0xFF)])
    0x00 0x00 0x00 0xFF 0x0000 0x24 6
    [.read 0x9000 0x60, .read 0x01FE 0xFF, .read 0x01FF 0xFF] = true := by decide
theorem test_ST4 : leadsTo (vector 0x00 0x00 0x00 0xFD 0x8000 0xFF [0x08]
    [])
    0x00 0x00 0x00 0xFC 0x8001 0xFF 3
    [.read 0x8000 0x08, .write 0x01FD 0xFF] = true := by decide
theorem test_ST5 : leadsTo (vector 0x00 0x00 0x00 0xFD 0x8000 0x24 [0x28]
    [(0x01FE, 0xC3)])
    0x00 0x00 0x00 0xFE 0x8001 0xC3 4
    [.read 0x8000 0x28, .read 0x01FE 0xC3] = true := by decide
theorem test_ST7 : leadsTo (vector 0x00 0x00 0x00 0xFD 0x8000 0x24 [0x9A]
    [])
    0x00 0x00 0x00 0x00 0x8001 0x24 2
    [.read 0x8000 0x9A] = true := by decide
theorem test_ST8 : leadsTo (vector 0x00 0x00 0x00 0xFD 0x8000 0x24 [0xBA]
    [])
    0x00 0xFD 0x00 0xFD 0x8001 0xA4 2
    [.read 0x8000 0xBA] = true := by decide
theorem test_ST9 : leadsTo (vector 0x11 0x00 0x00 0x00 0x8000 0x24 [0x48]
    [])
    0x11 0x00 0x00 0xFF 0x8001 0x24 3
    [.read 0x8000 0x48, .write 0x0100 0x11] = true := by decide
theorem test_ST10 : leadsTo (vector 0x00 0x00 0x00 0xFF 0x8000 0x24 [0x68]
    [(0x0100, 0x80)])
    0x80 0x00 0x00 0x00 0x8001 0xA4 4
    [.read 0x8000 0x68, .read 0x0100 0x80] = true := by decide
theorem test_ST13 : leadsTo (vector 0x00 0x00 0x00 0xFD 0x8000 0x24 [0x58]
    [])
    0x00 0x00 0x00 0xFD 0x8001 0x20 2
    [.read 0x8000 0x58] = true := by decide
theorem test_ST15 : leadsTo (vector 0x00 0x00 0x00 0xFD 0x8000 0x64 [0xB8]
    [])
    0x00 0x00 0x00 0xFD 0x8001 0x24 2
    [.read 0x8000 0xB8] = true := by decide
theorem test_ST16 : leadsTo (vector 0x00 0x00 0x00 0xFD 0x8000 0x2C [0xD8]
    [])
    0x00 0x00 0x00 0xFD 0x8001 0x24 2
    [.read 0x8000 0xD8] = true := by decide
theorem test_ST17 : leadsTo (vector 0x00 0x00 0x00 0xFD 0x8000 0x24 [0xF8]
    [])
    0x00 0x00 0x00 0xFD 0x8001 0x2C 2
    [.read 0x8000 0xF8] = true := by decide
theorem test_ST19 : leadsTo (vector 0x00 0x00 0x00 0xFD 0x8000 0x24 [0x00]
    [(0xFFFE, 0x00), (0xFFFF, 0x90)])
    0x00 0x00 0x00 0xFA 0x9000 0x24 7
    [.read 0x8000 0x00, .write 0x01FD 0x80, .write 0x01FC 0x02, .write 0x01FB 0x34, .read 0xFFFE 0x00, .read 0xFFFF 0x90] = true := by decide
theorem test_ST20 : leadsTo (vector 0x00 0x00 0x00 0xFD 0x8000 0xE7 [0x00]
    [(0xFFFE, 0x00), (0xFFFF, 0x90)])
    0x00 0x00 0x00 0xFA 0x9000 0xE7 7
    [.read 0x8000 0x00, .write 0x01FD 0x80, .write 0x01FC 0x02, .write 0x01FB 0xF7, .read 0xFFFE 0x00, .read 0xFFFF 0x90] = true := by decide
theorem test_ST22 : leadsTo (vector 0x00 0x00 0x00 0xFD 0x9000 0x24 [0x40]
    [(0x01FE, 0xCF), (0x01FF, 0x34), (0x0100, 0x12)])
    0x00 0x00 0x00 0x00 0x1234 0xCF 6
    [.read 0x9000 0x40, .read 0x01FE 0xCF, .read 0x01FF 0x34, .read 0x0100 0x12] = true := by decide
theorem test_ST23 : leadsTo (vector 0x00 0x00 0x00 0xFD 0x8000 0x24 [0x02]
    [])
    0x00 0x00 0x00 0xFD 0x8000 0x24 0
    [.read 0x8000 0x02] = true := by decide

/-! ## Interrupts and reset (IN1 to IN5, RS1, RS2 of 95_test_vectors.md) -/

/-- The bytes of the interrupt vectors of 95_test_vectors.md: NOP at 8000, IRQ handler 9000, NMI handler A000. -/
def vectorBytes : List (Word × Byte) := [(0xFFFE, 0x00), (0xFFFF, 0x90), (0xFFFA, 0x00), (0xFFFB, 0xA0)]

def irqState (p : Byte) : State := driveIrq true (vector 0 0 0 0xFD 0x8000 p [0xEA] vectorBytes)

def nmiState : State := assertNmi (vector 0 0 0 0xFD 0x8000 0x34 [0xEA] vectorBytes)

theorem test_IN1 : leadsTo (irqState 0x24) 0 0 0 0xFD 0x8001 0x24 2 [.read 0x8000 0xEA] = true := by decide
theorem test_IN2 : leadsTo (irqState 0x20) 0 0 0 0xFA 0x9000 0x24 7
    [.write 0x01FD 0x80, .write 0x01FC 0x00, .write 0x01FB 0x20, .read 0xFFFE 0x00, .read 0xFFFF 0x90] = true := by decide
theorem test_IN3 : leadsTo (irqState 0xFB) 0 0 0 0xFA 0x9000 0xFF 7
    [.write 0x01FD 0x80, .write 0x01FC 0x00, .write 0x01FB 0xEB, .read 0xFFFE 0x00, .read 0xFFFF 0x90] = true := by decide
theorem test_IN4 : leadsTo nmiState 0 0 0 0xFA 0xA000 0x34 7
    [.write 0x01FD 0x80, .write 0x01FC 0x00, .write 0x01FB 0x24, .read 0xFFFA 0x00, .read 0xFFFB 0xA0] = true := by decide
theorem test_IN5 : leadsTo (assertNmi (driveIrq true (vector 0 0 0 0x01 0x8000 0x20 [0xEA] vectorBytes)))
    0 0 0 0xFE 0xA000 0x24 7
    [.write 0x0101 0x80, .write 0x0100 0x00, .write 0x01FF 0x20, .read 0xFFFA 0x00, .read 0xFFFB 0xA0] = true := by decide

/-- A core stopped by the illegal opcode 02 at 8000. -/
def stopped : State := raise (.illegalOpcode 0x02 0x8000) (vector 1 2 3 4 0x8000 0x24 [0x02] [(0xFFFC, 0x34), (0xFFFD, 0x12)])

theorem test_RS2 : (applyReset stopped).regs = (0, 0, 0, 0xFD, 0x1234) ∧ (applyReset stopped).fault = none ∧
    (applyReset stopped).p = 0x24 ∧ (applyReset stopped).accesses = [.read 0xFFFC 0x34, .read 0xFFFD 0x12] := by decide

/-! ## Witnesses: a state and operands that meet the hypotheses of each statement -/

/-- A state on the reference bus, PC in the cartridge, the I/O port at 0x4016. -/
def onReferenceBus (code : List Byte) : State :=
  ({ State.reset with
      pc := 0x8000
      params := { Params.default with bus := .reference, ioPorts := [0x4016], ioStubValue := 0x40 } }).placeAll 0x8000 code

def load42 : State := vector 0 0 0 0xFD 0x8000 0x24 [0xA9, 0x42] []

theorem witness_DecodedBytesAreTheEncoding : decode [0xA9, 0x10, 0xEA] = .ok (.ldaImm 0x10, [0xEA]) := rfl
theorem witness_DecoderIsTotalOnOpcodeBytes : (0x02 : Byte) ∈ illegalOpcodes ∧ (0x00 : Byte) ∉ illegalOpcodes ∧
    (0xFF : Byte) ∈ illegalOpcodes ∧ (0xFE : Byte) ∉ illegalOpcodes := by decide
theorem witness_ExtraCycleFlag : descriptor 0xBD = some ⟨.lda, .abx, 4, true⟩ ∧
    descriptor 0x9D = some ⟨.sta, .abx, 5, false⟩ := ⟨rfl, rfl⟩
theorem witness_StepRunsTheDecodedInstruction : load42.fault = none ∧ interruptStep load42.beginStep = none ∧
    decode [0xA9, 0x42] = .ok (.ldaImm 0x42, []) ∧ (fetchN 2 load42.beginStep).1 = [0xA9, 0x42] := ⟨rfl, rfl, rfl, rfl⟩

/-- The fetch wraps at the top of memory: the bytes at 0xFFFF and 0x0000. -/
def fetchAtTop : State := vector 0 0 0 0xFD 0xFFFF 0x24 [0xA9, 0x42] []

theorem witness_FetchReadsConsecutiveBytes : ∀ (k : Nat) (h : k < [(0xA9 : Byte), 0x42].length),
    fetchAtTop.peek (fetchAtTop.pc + BitVec.ofNat 16 k) = some [(0xA9 : Byte), 0x42][k] := by decide
theorem witness_FetchReadsConsecutiveBytes_reference : (onReferenceBus [0xEA]).peek 0x8000 = some 0xEA := by decide

def atIllegal : State := vector 1 2 3 4 0x8000 0x24 [0x02] []

theorem witness_IllegalOpcodeStopsTheCore : atIllegal.fault = none ∧ interruptStep atIllegal.beginStep = none ∧
    atIllegal.busByte atIllegal.pc ∈ illegalOpcodes := ⟨rfl, rfl, by decide⟩
theorem witness_FaultedCoreHasNoStep : stopped.fault = some (.illegalOpcode 0x02 0x8000) := rfl
theorem witness_UnfaultedCoreAlwaysSteps : State.reset.fault = none ∧ atIllegal.fault = none := ⟨rfl, rfl⟩
theorem witness_StepKeepsTheInvariant : ∃ t, Invariant load42 ∧ step load42 = .next t :=
  ⟨_, ⟨by decide, by decide, by decide⟩, rfl⟩
theorem witness_StepKeepsTheInvariant_fault : ∃ t, Invariant atIllegal ∧ step atIllegal = .next t :=
  ⟨_, ⟨by decide, by decide, by decide⟩, rfl⟩
theorem witness_EnvironmentKeepsTheInvariant : Invariant load42 ∧ Params.default.wf = true ∧
    Memory.wf [(0xFFFC, 0x34), (0xFFFD, 0x12)] = true := ⟨⟨by decide, by decide, by decide⟩, by decide, by decide⟩
theorem witness_ResetValuesTheSourceFixes : stopped.params.wf = true ∧ stopped.peek 0xFFFC = some 0x34 ∧
    stopped.peek 0xFFFD = some 0x12 := by decide
theorem witness_ResetValuesTheSourceFixes_reference : (onReferenceBus []).params.wf = true ∧
    (onReferenceBus []).peek 0xFFFC = some 0x00 ∧ (onReferenceBus []).peek 0xFFFD = some 0x00 := by decide
theorem witness_PendingNmiIsTaken : nmiState.fault = none ∧ nmiState.nmiPending = true := ⟨rfl, rfl⟩
theorem witness_UnmaskedIrqIsTaken : (irqState 0x20).fault = none ∧ (irqState 0x20).nmiPending = false ∧
    (irqState 0x20).irqLine = true ∧ (irqState 0x20).flag .i = false := ⟨rfl, rfl, rfl, rfl⟩
theorem witness_MaskedIrqLine_by_I : ∃ t, (irqState 0x24).flag .i = true ∧ step (irqState 0x24) = .next t := ⟨_, rfl, rfl⟩
theorem witness_MaskedIrqLine_by_NMI : ∃ t, nmiState.nmiPending = true ∧ step nmiState = .next t := ⟨_, rfl, rfl⟩
theorem witness_RtiUndoesAnInterruptEntry_irq : ∃ t u, (irqState 0x20).fault = none ∧
    (interruptStep (irqState 0x20).beginStep).isSome = true ∧ step (irqState 0x20) = .next t ∧ exec .rti t = .next u :=
  ⟨_, _, rfl, rfl, rfl, rfl⟩
theorem witness_RtiUndoesAnInterruptEntry_nmi : ∃ t u, nmiState.fault = none ∧
    (interruptStep nmiState.beginStep).isSome = true ∧ step nmiState = .next t ∧ exec .rti t = .next u :=
  ⟨_, _, rfl, rfl, rfl, rfl⟩
theorem witness_RtiAfterBrk : ∃ t u, exec .brk load42 = .next t ∧ exec .rti t = .next u := ⟨_, _, rfl, rfl⟩
theorem witness_StepsCost : ∃ t u v, step load42 = .next t ∧ t.clk = 2 ∧
    step (vector 0 1 0 0xFD 0x8000 0x24 [0x1E, 0x00, 0x02] []) = .next u ∧ u.clk = 7 ∧
    step atIllegal = .next v ∧ v.clk = 0 := ⟨_, _, _, rfl, rfl, rfl, rfl, rfl, rfl⟩
theorem witness_StepToReachesItsTarget : 0 < load42.params.intCycles ∧ load42.clk < 1 ∧ (stepTo 1 load42).fault = none ∧
    (stepTo 1 load42).clk = 2 := by decide

theorem witness_RegisterWriters_a : ∃ t, exec (.ldaImm 1) load42 = .next t ∧ t.a ≠ load42.a := ⟨_, rfl, by decide⟩
theorem witness_RegisterWriters_acc : ∃ t, exec .aslAcc (load42.setA 1) = .next t ∧ t.a ≠ (load42.setA 1).a :=
  ⟨_, rfl, by decide⟩
theorem witness_RegisterWriters_x : ∃ t, exec .inx load42 = .next t ∧ t.x ≠ load42.x := ⟨_, rfl, by decide⟩
theorem witness_RegisterWriters_y : ∃ t, exec .dey load42 = .next t ∧ t.y ≠ load42.y := ⟨_, rfl, by decide⟩
theorem witness_RegisterWriters_sp : ∃ t, exec .txs load42 = .next t ∧ t.sp ≠ load42.sp := ⟨_, rfl, by decide⟩
theorem witness_RegisterWriters_pc : ∃ t, exec (.bne 0x10) load42 = .next t ∧ t.pc ≠ load42.pc := ⟨_, rfl, by decide⟩
theorem witness_FlagWriters_c : ∃ t, exec .sec load42 = .next t ∧ t.flag .c ≠ load42.flag .c := ⟨_, rfl, by decide⟩
theorem witness_FlagWriters_zn : ∃ t, exec (.ldaImm 0x80) load42 = .next t ∧ t.flag .n ≠ load42.flag .n :=
  ⟨_, rfl, by decide⟩
theorem witness_FlagWriters_i : ∃ t, exec .cli load42 = .next t ∧ t.flag .i ≠ load42.flag .i := ⟨_, rfl, by decide⟩
theorem witness_FlagWriters_d : ∃ t, exec .sed load42 = .next t ∧ t.flag .d ≠ load42.flag .d := ⟨_, rfl, by decide⟩
theorem witness_FlagWriters_v : ∃ t, exec .clv (load42.setP 0x40) = .next t ∧ t.flag .v ≠ (load42.setP 0x40).flag .v :=
  ⟨_, rfl, by decide⟩
theorem witness_FlagWriters_b5 : ∃ t, exec .plp load42 = .next t ∧ t.flag .b5 ≠ load42.flag .b5 := ⟨_, rfl, by decide⟩
theorem witness_MemoryWriters : ∃ t, exec .php load42 = .next t ∧ t.peek 0x01FD ≠ load42.peek 0x01FD := ⟨_, rfl, by decide⟩

theorem witness_CanonicalMemories : Memory.wf [(0, 0x01), (65535, 0xFF)] = true := by decide
theorem witness_RamIsMirrored : (onReferenceBus []).params.bus = .reference ∧ (0x1FFF : Word).toNat < 0x2000 ∧
    (memWrite 0x1FFF 0x5A (onReferenceBus [])).peek 0x07FF = some 0x5A ∧
    (memWrite 0x1FFF 0x5A (onReferenceBus [])).peek 0x2000 = none := by decide
theorem witness_StubAddresses_unassigned : (onReferenceBus []).params.bus = .reference ∧
    (memRead 0x4018 (onReferenceBus [])).1 = 0x00 ∧ (memRead 0x401F (onReferenceBus [])).1 = 0x00 := by decide
theorem witness_StubAddresses_port : (0x4016 : Word) ∈ (onReferenceBus []).params.ioPorts ∧
    (memRead 0x4016 (onReferenceBus [])).1 = 0x40 ∧ (onReferenceBus []).peek 0x4017 = none := by decide

/-- Bytes at the ends of pages: 0x00FF, 0x0000, 0x02FF, 0x0200, 0x0300, 0xFFFF. -/
def pageEnds : State :=
  vector 0 0 0 0xFD 0x8000 0x24 [] [(0x00FF, 1), (0x0000, 2), (0x02FF, 3), (0x0200, 4), (0x0300, 5), (0xFFFF, 6)]

theorem witness_SixteenBitReads : pageEnds.peek 0xFFFF = some 6 ∧ pageEnds.peek 0x0000 = some 2 ∧
    pageEnds.peek 0x00FF = some 1 ∧ pageEnds.peek 0x02FF = some 3 ∧ pageEnds.peek 0x0300 = some 5 ∧
    pageEnds.peek 0x0200 = some 4 := by decide
theorem test_SixteenBitReads : (read16 0x02FF pageEnds).1 = 0x0503 ∧ (read16Bug 0x02FF pageEnds).1 = 0x0403 ∧
    (read16Zp 0xFF pageEnds).1 = 0x0201 ∧ (read16 0xFFFF pageEnds).1 = 0x0206 := by decide
theorem witness_StoreIsSeenByTheNextFetch : hits load42.params 0x8000 load42.pc = true := by decide
theorem witness_StoreIsSeenByTheNextFetch_mirror :
    hits (onReferenceBus []).params 0x1801 ((onReferenceBus []).setPc 0x0001).pc = true := by decide
theorem witness_ResolverLocationsThroughPointer : pageEnds.peek 0x02FF = some 3 ∧
    pageEnds.peek (BitVec.ofNat 16 ((0x02FF : Word).toNat / 256 * 256 + ((0x02FF : Word).toNat + 1) % 256)) = some 4 := by
  decide

theorem witness_LoadsWriteTheirRegister : (Instr.ldaIzy 0xFF).op ∈ [Op.lda, .ldx, .ldy] ∧
    (Instr.ldxZpy 0xFF).op ∈ [Op.lda, .ldx, .ldy] ∧ (Instr.ldyAbx 0xFFFF).op ∈ [Op.lda, .ldx, .ldy] := by decide
theorem witness_StoresWriteTheEffectiveAddress : (Instr.staIzx 0xFF).op ∈ [Op.sta, .stx, .sty] ∧
    (Instr.stxZpy 0xFF).op ∈ [Op.sta, .stx, .sty] ∧ (Instr.styAbs 0xFFFF).op ∈ [Op.sta, .stx, .sty] := by decide
theorem witness_AdcAddsWithCarry : (Instr.adcImm 0x50).op = .adc ∧ (Instr.adcIzy 0xFF).op = .adc := by decide
theorem witness_SbcSubtractsWithBorrow : (Instr.sbcImm 0x50).op = .sbc ∧ (Instr.sbcAbx 0xFFFF).op = .sbc := by decide
theorem witness_AdcOverflow : ∃ t, exec (.adcImm 0x50) (load42.setA 0x50) = .next t ∧ t.flag .v = true :=
  ⟨_, rfl, by decide⟩
theorem witness_DecimalFlag : ∃ t u, exec (.adcImm 0x09) (load42.setA 0x09) = .next t ∧
    exec (.sbcImm 0x09) load42 = .next u := ⟨_, _, rfl, rfl⟩
theorem witness_Compares : (Instr.cmpIzx 0xFF).op ∈ [Op.cmp, .cpx, .cpy] ∧ (Instr.cpxImm 0xFF).op ∈ [Op.cmp, .cpx, .cpy] ∧
    (Instr.cpyAbs 0xFFFF).op ∈ [Op.cmp, .cpx, .cpy] := by decide
theorem witness_Logic : (Instr.andImm 0xFF).op ∈ [Op.and, .ora, .eor] ∧ (Instr.oraIzy 0xFF).op ∈ [Op.and, .ora, .eor] ∧
    (Instr.eorAby 0xFFFF).op ∈ [Op.and, .ora, .eor] := by decide
theorem witness_BitTestsTheOperand : (Instr.bitZp 0xFF).op = .bit ∧ (Instr.bitAbs 0xFFFF).op = .bit := by decide
theorem witness_Shifts : Instr.aslAcc.op ∈ [Op.asl, .lsr, .rol, .ror] ∧ (Instr.lsrZpx 0xFF).op ∈ [Op.asl, .lsr, .rol, .ror] ∧
    (Instr.rolAbs 0xFFFF).op ∈ [Op.asl, .lsr, .rol, .ror] ∧ (Instr.rorAbx 0xFFFF).op ∈ [Op.asl, .lsr, .rol, .ror] := by decide
theorem witness_IncAndDec : (Instr.incZp 0xFF).op = .inc ∧ (Instr.decAbx 0xFFFF).op = .dec := by decide
theorem witness_Jmp : (Instr.jmpAbs 0xFFFF).op = .jmp ∧ (Instr.jmpInd 0x02FF).op = .jmp := by decide
theorem witness_RtsUndoesJsr : ∃ t u, exec (.jsr 0x9000) (load42.setSp 0x00) = .next t ∧ exec .rts t = .next u :=
  ⟨_, _, rfl, rfl⟩
theorem witness_StatusByteRoundTrips : ∃ t u v w, exec .php load42 = .next t ∧ exec .plp t = .next u ∧
    exec .plp load42 = .next v ∧ exec .php v = .next w := ⟨_, _, _, _, rfl, rfl, rfl, rfl⟩

end Sys2Proof.Machine.Tests
end

/-! The flag logic over the status byte (10_state.md R18, R20). -/

namespace Sys2Proof.Machine

/-- Each flag is the bit of P that R18 numbers. -/
theorem flag_eq_getLsbD (s : State) (f : Flag) : s.flag f = s.p.getLsbD f.bit := rfl

@[simp] theorem setFlag_flag_same (s : State) (f : Flag) (b : Bool) : (s.setFlag f b).flag f = b :=
  flagOf_putFlag_same s.p f b

theorem flagsKept_setFlag (s : State) (f : Flag) (b : Bool) : FlagsKept [f] s (s.setFlag f b) := by
  intro g hg
  have hne : g ≠ f := by simpa using hg
  rw [setFlag_flag, if_neg hne]

theorem flagsKept_setZN (s : State) (v : Byte) : FlagsKept [.z, .n] s (s.setZN v) := by
  intro g hg
  obtain ⟨hz, hn⟩ : g ≠ .z ∧ g ≠ .n := by simpa using hg
  rw [setZN_flag, if_neg hn, if_neg hz]

theorem setFlag_eq_update_p (s : State) (f : Flag) (b : Bool) :
    s.setFlag f b = { s with p := (s.setFlag f b).p } := rfl

theorem setZN_eq_update_p (s : State) (v : Byte) : s.setZN v = { s with p := (s.setZN v).p } := rfl

/-- Settles O60: each write is read back through `flagOf_putFlag`, which keeps the other bits of P. -/
theorem flagLogicWritesOnlyItsBits : Obligations.FlagLogicWritesOnlyItsBits := by
  intro s
  refine ⟨?reads, fun f b => ?setFlag, fun v => ?setZN⟩
  case reads =>
    simp [flag_eq_getLsbD, Flag.bit]
  case setFlag =>
    exact ⟨setFlag_flag_same s f b, flagsKept_setFlag s f b, setFlag_eq_update_p s f b⟩
  case setZN =>
    exact ⟨znFrom_setZN v s, flagsKept_setZN s v, setZN_eq_update_p s v⟩

end Sys2Proof.Machine

/-! The extra-cycle flag of the instruction table (30_encoding.md R81). -/

namespace Sys2Proof.Machine

/-- The descriptor of an opcode byte stands in one of the 16 table rows, next to that opcode: a fact about every opcode and
its descriptor is one check of the rows. -/
theorem descriptor_of_rows {P : Byte → Descriptor → Prop} (hrows : ∀ n < 16, ∀ r ∈ tableRows n, P r.opcode r.desc)
    {op : Byte} {d : Descriptor} (h : descriptor op = some d) : P op d := by
  obtain ⟨r, hr, rfl⟩ := Option.map_eq_some_iff.mp h
  obtain ⟨rfl, -⟩ := Laws.lookup_some hr
  have hnibble : r.opcode.toNat / 16 < 16 := by omega
  exact hrows _ hnibble r (List.mem_of_find?_eq_some hr)

/-- R81 over the table itself: the flag of a row is set exactly when the row's opcode is listed. -/
theorem tableRows_extra_iff : ∀ n < 16, ∀ r ∈ tableRows n, r.desc.extra = true ↔ r.opcode ∈ extraOpcodes := by
  decide

/-- Settles O4: the flag is checked once over the table's rows and carried to every opcode by `descriptor_of_rows`; the list
itself and the nine fixed costs are finite facts. -/
theorem extraCycleFlagIsSetForExactlyThese : Obligations.ExtraCycleFlagIsSetForExactlyThese := by
  refine ⟨?length, ?nodup, fun op d h => ?flag, ?fixedCosts⟩
  case length => rfl
  case nodup => decide
  case flag => exact descriptor_of_rows (P := fun op d => d.extra = true ↔ op ∈ extraOpcodes) tableRows_extra_iff h
  case fixedCosts => decide

end Sys2Proof.Machine

/-! The conditional branches (46_branch_jump.md R190 to R198, 41_execution_loop.md R118). -/

namespace Sys2Proof.Machine

/-- The sum of R104, modulo 65536, is the address of the signed sum. -/
theorem add_sext (w : Word) (o : Byte) : w + sext o = BitVec.ofInt 16 (w.toNat + o.toInt) := by
  rw [BitVec.ofInt_add, BitVec.ofInt_natCast, BitVec.ofNat_toNat, BitVec.setWidth_eq]
  rfl

/-- An address crosses from a base when the page numbers differ (R115). -/
theorem bitNat_crosses (ea base : Word) :
    bitNat (crosses ea base) = if ea.toNat / 256 = base.toNat / 256 then 0 else 1 := by
  have hpage : hi ea = hi base ↔ ea.toNat / 256 = base.toNat / 256 := by
    rw [← hi_toNat, ← hi_toNat, BitVec.toNat_inj]
  by_cases h : hi ea = hi base
  · simp [bitNat, crosses, h, hpage.mp h]
  · simp [bitNat, crosses, h, mt hpage.mpr h]

theorem tableRows_branch : ∀ n < 16, ∀ r ∈ tableRows n, r.desc.op.kind = .branch →
    r.desc.cycles = 2 ∧ r.desc.extra = true := by
  decide

/-- A branch costs 2 cycles and what it signals (R118). -/
theorem cost_branch {i : Instr} (hk : i.op.kind = .branch) (e : Nat) : cost i e = 2 + e := by
  obtain ⟨c, x, hd⟩ := (Laws.tableRow_all i).1
  obtain ⟨rfl, rfl⟩ : c = 2 ∧ x = true :=
    descriptor_of_rows (P := fun _ d => d.op.kind = .branch → d.cycles = 2 ∧ d.extra = true) tableRows_branch hd hk
  exact cost_of_row hd e

/-- A branch is an update of PC and CLK: to the target at 3 or 4 cycles, or on at 2 cycles (R118, R190). -/
theorem exec_branch_eq {i : Instr} {o : Byte} (hk : i.op.kind = .branch) (ho : i.operand = .rel o) (s : State) :
    let target := BitVec.ofInt 16 (s.pc.toNat + o.toInt)
    exec i s = .next
      (if s.flag (branchTest i.op).1 = (branchTest i.op).2
        then (s.setPc target).addClk (if target.toNat / 256 = s.pc.toNat / 256 then 3 else 4)
        else s.addClk 2) := by
  obtain ⟨o', ho', he⟩ := exec_branch_effect hk s
  obtain rfl : o = o' := by simpa using ho.symm.trans ho'
  rw [he, cost_branch hk, cost_branch hk, bitNat_crosses, add_sext]
  by_cases hpage : (BitVec.ofInt 16 (s.pc.toNat + o.toInt)).toNat / 256 = s.pc.toNat / 256
  · simp only [hpage, if_true]
  · simp only [hpage, if_false]

/-- Settles O49: the eight rows are branches over the same offset, each with its opcode and its test (R191 to R198), so
`exec_branch_eq` gives the next state of each; what it updates is PC and CLK. -/
theorem branchesTestOneFlag : Obligations.BranchesTestOneFlag := by
  intro s o r hr
  obtain ⟨hk, ho, htest, henc⟩ : r.1.op.kind = .branch ∧ r.1.operand = .rel o ∧ branchTest r.1.op = r.2.2 ∧
      encode r.1 = [r.2.1, o] := by
    revert r
    simp only [List.forall_mem_cons]
    exact ⟨⟨rfl, rfl, rfl, rfl⟩, ⟨rfl, rfl, rfl, rfl⟩, ⟨rfl, rfl, rfl, rfl⟩, ⟨rfl, rfl, rfl, rfl⟩,
      ⟨rfl, rfl, rfl, rfl⟩, ⟨rfl, rfl, rfl, rfl⟩, ⟨rfl, rfl, rfl, rfl⟩, ⟨rfl, rfl, rfl, rfl⟩, nofun⟩
  refine ⟨_, exec_branch_eq hk ho s, henc, ?_⟩
  rw [htest]
  by_cases htaken : s.flag r.2.2.1 = r.2.2.2
  · simp [htaken, State.regs, MemoryKept]
  · simp [htaken, State.regs, MemoryKept]

end Sys2Proof.Machine

/-! Loads, stores and transfers (42_load_store_transfer.md). -/

namespace Sys2Proof.Machine

/-- The opcodes of an operation are those of its rows in the table of R74. -/
theorem opcode_mem_of_rows {o : Op} {codes : List Byte}
    (hrows : ∀ n < 16, ∀ r ∈ tableRows n, r.desc.op = o → r.opcode ∈ codes) {i : Instr} (hi : i.op = o) :
    i.opcode ∈ codes :=
  Laws.instr_of_rows (P := fun code op _ => op = o → code ∈ codes) hrows i hi

/-- A status byte that is `putZN` of the one before has Z and N from the value and every other flag as it was (R20). -/
theorem znFrom_and_flagsKept {v : Byte} {s t : State} (hp : t.p = putZN s.p v) :
    ZNFrom v t ∧ FlagsKept [.z, .n] s t := by
  refine ⟨(znFrom_setZN v s).congr hp, fun f hf => ?_⟩
  calc t.flag f = (s.setZN v).flag f := congrArg (flagOf · f) hp
    _ = s.flag f := flagsKept_setZN s v f hf

/-- An operation that keeps what no operation changes completes once its cycles are added (R116). -/
theorem Keeps.completed {s u : State} (h : Keeps s u) (i : Instr) (e : Nat) :
    Completed i e s (u.addClk (cost i e)) :=
  completed_addClk h.clk h.nmiPending h.fault h.irqLine h.params

/-! ## The next state of an operation that reads -/

@[simp] theorem readEffect_peek (op : Op) (v : Byte) (t : State) (b : Word) : (readEffect op v t).peek b = t.peek b := by
  cases op <;> rfl

@[simp] theorem readEffect_accesses (op : Op) (v : Byte) (t : State) : (readEffect op v t).accesses = t.accesses := by
  cases op <;> rfl

/-- The next state of an operation that reads its operand: `exec_readNext` ties it to `exec`. -/
def readNext (i : Instr) (s : State) : State :=
  (readEffect i.op (operandByte i s) (loaded i s)).addClk (cost i (operandLoc i s).crossing)

theorem exec_readNext {i : Instr} (hk : i.op.kind = .read) (s : State) : exec i s = .next (readNext i s) :=
  exec_read_effect hk s

theorem memoryKept_readNext (i : Instr) (s : State) : MemoryKept s (readNext i s) := fun b => by
  simp [readNext]

theorem readNext_accesses (i : Instr) (s : State) :
    (readNext i s).accesses = afterResolve i s ++ loadAccess (operandLoc i s) (operandByte i s) := by
  simp [readNext]

theorem completed_readNext (i : Instr) (s : State) : Completed i (operandLoc i s).crossing s (readNext i s) :=
  ((keeps_loaded i s).trans (keeps_readEffect i.op (operandByte i s) (loaded i s))).completed i _

/-! ## LDA, LDX, LDY -/

theorem kind_of_load : ∀ op ∈ [Op.lda, .ldx, .ldy], op.kind = .read := by decide

theorem readEffect_p_of_load (v : Byte) (t : State) :
    ∀ op ∈ [Op.lda, .ldx, .ldy], (readEffect op v t).p = putZN t.p v := by
  simp only [List.forall_mem_cons]
  exact ⟨rfl, rfl, rfl, nofun⟩

theorem readNext_p_of_load {i : Instr} (h : i.op ∈ [Op.lda, .ldx, .ldy]) (s : State) :
    (readNext i s).p = putZN s.p (operandByte i s) := by
  rw [readNext, addClk_p, readEffect_p_of_load _ _ _ h, loaded_p]

theorem readNext_regs_of_lda {i : Instr} (h : i.op = .lda) (s : State) :
    (readNext i s).regs = (operandByte i s, s.x, s.y, s.sp, s.pc) := by
  simp [readNext, h, readEffect, State.regs]

theorem readNext_regs_of_ldx {i : Instr} (h : i.op = .ldx) (s : State) :
    (readNext i s).regs = (s.a, operandByte i s, s.y, s.sp, s.pc) := by
  simp [readNext, h, readEffect, State.regs]

theorem readNext_regs_of_ldy {i : Instr} (h : i.op = .ldy) (s : State) :
    (readNext i s).regs = (s.a, s.x, operandByte i s, s.sp, s.pc) := by
  simp [readNext, h, readEffect, State.regs]

/-- Settles O35: a load is a reading operation, so `readNext` is its next state; the operation decides the register, and the
status byte is `SetZN` of the operand byte for all three. -/
theorem loadsWriteTheirRegister : Obligations.LoadsWriteTheirRegister := by
  intro i s hop
  obtain ⟨hzn, hflags⟩ := znFrom_and_flagsKept (readNext_p_of_load hop s)
  exact ⟨readNext i s, exec_readNext (kind_of_load i.op hop) s,
    fun h => ⟨opcode_mem_of_rows (by decide) h, readNext_regs_of_lda h s⟩,
    fun h => ⟨opcode_mem_of_rows (by decide) h, readNext_regs_of_ldx h s⟩,
    fun h => ⟨opcode_mem_of_rows (by decide) h, readNext_regs_of_ldy h s⟩,
    hzn, hflags, memoryKept_readNext i s, readNext_accesses i s, completed_readNext i s⟩

/-! ## STA, STX, STY -/

theorem kind_of_store : ∀ op ∈ [Op.sta, .stx, .sty], op.kind = .store := by decide

/-- A write after the pointer reads of the operand stores the same byte as a write before them. -/
theorem storesOnly_memWrite_resolve (o : Operand) (a : Word) (v : Byte) (s : State) :
    StoresOnly a v s (memWrite a v (resolve o s).2) := fun b => by
  rw [memWrite_peek, resolve_params, resolve_peek]

/-- A store costs its base cycles, whether or not its address crosses a page (R81, R117). -/
theorem completed_store {i : Instr} (hk : i.op.kind = .store) (a : Word) (v : Byte) (e : Nat) (s : State) :
    Completed i 0 s ((memWrite a v (resolve i.operand s).2).addClk (cost i e)) :=
  (((keeps_resolve i.operand s).trans (keeps_memWrite a v _)).completed i e).of_cost
    (cost_no_extra (by simp [hk]) (.inl (by simp [hk])) e)

/-- Settles O36: a store is one write, after the pointer reads of its operand, of the register its operation names; the
registers, P and the byte stored are those of the state before, since resolving changes none of them. -/
theorem storesWriteTheEffectiveAddress : Obligations.StoresWriteTheEffectiveAddress := by
  intro i s hop
  have hk : i.op.kind = .store := kind_of_store i.op hop
  obtain ⟨a, crossed, hloc, hexec⟩ := exec_store hk (execute_store hk) s
  refine ⟨_, a, crossed, storedRegister i.op (resolve i.operand s).2, hexec, hloc,
    fun h => ⟨?sta, opcode_mem_of_rows (by decide) h⟩, fun h => ⟨?stx, opcode_mem_of_rows (by decide) h⟩,
    fun h => ⟨?sty, opcode_mem_of_rows (by decide) h⟩, ?memory, rfl, ?regs, ?status, completed_store hk a _ _ s⟩
  case sta => rw [h]; exact resolve_a i.operand s
  case stx => rw [h]; exact resolve_x i.operand s
  case sty => rw [h]; exact resolve_y i.operand s
  case memory => exact storesOnly_memWrite_resolve i.operand a _ s
  case regs => simp [State.regs]
  case status => exact resolve_p i.operand s

/-! ## TAX, TAY, TXA, TYA, TSX -/

/-- What a transfer's own effect is, before its cycles are added: the registers `regs`, Z and N from `v`, no bus access. -/
structure Transfers (v : Byte) (regs : Byte × Byte × Byte × Byte × Word) (s t : State) : Prop where
  regs     : t.regs = regs
  p        : t.p = putZN s.p v
  memory   : MemoryKept s t
  accesses : t.accesses = s.accesses

/-- Settles O37: each of the five rows is an implied instruction of 2 cycles whose effect is a transfer (R131 to R134, R217);
the next state is that effect with the cycles added. -/
theorem transfersMoveAndSetZN : Obligations.TransfersMoveAndSetZN := by
  intro s r hr
  obtain ⟨hk, henc, hcost, heffect⟩ : r.1.op.kind = .implied ∧ encode r.1 = [r.2.1] ∧ cost r.1 0 = 2 ∧
      Transfers r.2.2.1 r.2.2.2 s (impliedEffect r.1.op s) := by
    revert r
    simp only [List.forall_mem_cons]
    refine ⟨?tax, ?tay, ?txa, ?tya, ?tsx, nofun⟩
    all_goals exact ⟨rfl, rfl, rfl, ⟨rfl, rfl, fun _ => rfl, rfl⟩⟩
  have hkeeps : Keeps s (impliedEffect r.1.op s) := keeps_impliedEffect r.1.op s
  obtain ⟨hzn, hflags⟩ := znFrom_and_flagsKept heffect.p
  exact ⟨_, exec_implied_effect hk s, henc, heffect.regs, hzn, hflags, heffect.memory, heffect.accesses,
    by rw [addClk_clk, hkeeps.clk, hcost], hkeeps.completed r.1 0⟩

end Sys2Proof.Machine

/-! Add, subtract and compare (43_arithmetic_compare.md). -/

namespace Sys2Proof.Machine

/-! ## An operation that reads works on the registers and flags of the state before -/

theorem readNext_regs_and_p (i : Instr) (s : State) :
    (readNext i s).regs = (readEffect i.op (operandByte i s) s).regs ∧
      (readNext i s).p = (readEffect i.op (operandByte i s) s).p := by
  obtain ⟨n, hloaded⟩ := loaded_eq i s
  rw [readNext, hloaded]
  cases i.op <;> exact ⟨rfl, rfl⟩

theorem FlagsKept.congr {l : List Flag} {s t u : State} (h : FlagsKept l s t) (hp : u.p = t.p) : FlagsKept l s u :=
  fun f hf => (congrArg (flagOf · f) hp).trans (h f hf)

/-! ## The adder -/

/-- The tested bit of R140's overflow formula is the sign bit. -/
theorem and_0x80_ne_zero_iff (v : Byte) : v &&& 0x80 ≠ 0 ↔ v.getLsbD 7 = true := by
  have h : v &&& 0x80 = if v.getLsbD 7 then 0x80 else 0 := BitVec.and_twoPow v 7
  rw [h]
  cases v.getLsbD 7 <;> decide

/-- R140's overflow formula compares signs: both summands differ in sign from the result. -/
theorem overflow_formula_iff (a m r : Byte) : (a ^^^ r) &&& (m ^^^ r) &&& 0x80 ≠ 0 ↔
    ¬(0x80 ≤ a.toNat ↔ 0x80 ≤ r.toNat) ∧ ¬(0x80 ≤ m.toNat ↔ 0x80 ≤ r.toNat) := by
  have hsign (u v : Byte) : (u.getLsbD 7 ^^ v.getLsbD 7) = true ↔ ¬(0x80 ≤ u.toNat ↔ 0x80 ≤ v.toNat) := by
    rw [← bit7_iff, ← bit7_iff, ← Bool.eq_iff_iff, bne_iff_ne]
  rw [and_0x80_ne_zero_iff, BitVec.getLsbD_and, BitVec.getLsbD_xor, BitVec.getLsbD_xor, Bool.and_eq_true,
    hsign, hsign]

/-- V of the adder is the overflow of the signed sum (R140). -/
theorem addC_overflow_iff (a m : Byte) (c : Bool) :
    (addC a m c).overflow = true ↔ a.toInt + m.toInt + bitNat c < -128 ∨ 127 < a.toInt + m.toInt + bitNat c := by
  have ha := a.isLt
  have hm := m.isLt
  have hc := bitNat_lt c
  rw [addC, bne_iff_ne, overflow_formula_iff, BitVec.toNat_ofNat, BitVec.toInt_eq_toNat_cond,
    BitVec.toInt_eq_toNat_cond]
  omega

/-- What R141 and R142 make of `s` when the byte added to the accumulator is `m`. -/
structure AddsToA (m : Byte) (s t : State) : Prop where
  regs     : t.regs = ((addC s.a m (s.flag .c)).result, s.x, s.y, s.sp, s.pc)
  carry    : t.flag .c = (addC s.a m (s.flag .c)).carry
  overflow : t.flag .v = (addC s.a m (s.flag .c)).overflow
  zn       : ZNFrom (addC s.a m (s.flag .c)).result t
  kept     : FlagsKept [.c, .z, .v, .n] s t

theorem addsToA_addToA (m : Byte) (s : State) : AddsToA m s (addToA m s) where
  regs := rfl
  carry := by simp [addToA, setZN_flag, setFlag_flag]
  overflow := by simp [addToA, setZN_flag]
  zn := (znFrom_setZN _ _).congr rfl
  kept f hf := by
    obtain ⟨hc, hz, hv, hn⟩ : f ≠ .c ∧ f ≠ .z ∧ f ≠ .v ∧ f ≠ .n := by simpa using hf
    rw [addToA, setA_flag, setZN_flag, if_neg hn, if_neg hz, setFlag_flag, if_neg hv, setFlag_flag, if_neg hc]

/-- `AddsToA` speaks of the registers and the status byte only. -/
theorem AddsToA.congr {m : Byte} {s t u : State} (h : AddsToA m s t) (hr : u.regs = t.regs) (hp : u.p = t.p) :
    AddsToA m s u where
  regs := hr.trans h.regs
  carry := (congrArg (flagOf · .c) hp).trans h.carry
  overflow := (congrArg (flagOf · .v) hp).trans h.overflow
  zn := h.zn.congr hp
  kept := h.kept.congr hp

theorem AddsToA.a {m : Byte} {s t : State} (h : AddsToA m s t) : t.a = (addC s.a m (s.flag .c)).result :=
  congrArg Prod.fst h.regs

theorem AddsToA.overflow_formula {m : Byte} {s t : State} (h : AddsToA m s t) :
    t.flag .v = true ↔ ((s.a ^^^ t.a) &&& (m ^^^ t.a) &&& 0x80) ≠ 0 := by
  rw [h.overflow, h.a]
  exact bne_iff_ne

theorem addsToA_readNext {i : Instr} {s : State} {m : Byte} (h : readEffect i.op (operandByte i s) s = addToA m s) :
    AddsToA m s (readNext i s) := by
  obtain ⟨hregs, hp⟩ := readNext_regs_and_p i s
  rw [h] at hregs hp
  exact (addsToA_addToA m s).congr hregs hp

/-! ## ADC -/

/-- Settles O39: ADC reads its operand byte and adds it to A, so what `AddsToA` says of the adder's outputs is the
statement once R140's sum is written out. -/
theorem adcAddsWithCarry : Obligations.AdcAddsWithCarry := by
  intro i s hop
  have hadds : AddsToA (operandByte i s) s (readNext i s) := addsToA_readNext (by rw [hop]; rfl)
  exact ⟨readNext i s, exec_readNext (by rw [hop]; rfl) s, opcode_mem_of_rows (by decide) hop, hadds.regs,
    by rw [hadds.carry]; exact decide_eq_true_iff, hadds.overflow_formula, hadds.a ▸ hadds.zn, hadds.kept,
    memoryKept_readNext i s, readNext_accesses i s, completed_readNext i s⟩

/-! ## SBC -/

/-- The borrow of R142, `1 - P.C`. -/
def borrow (c : Bool) : Int := if c then 0 else 1

theorem borrow_eq (c : Bool) : borrow c = 1 - bitNat c := by cases c <;> rfl

theorem complement_toNat (m : Byte) : (m ^^^ 0xFF).toNat = 255 - m.toNat := by
  have h : m ^^^ 0xFF = ~~~m := BitVec.xor_allOnes
  rw [h, BitVec.toNat_not]

theorem complement_toInt (m : Byte) : (m ^^^ 0xFF).toInt = -m.toInt - 1 := by
  have hm := m.isLt
  rw [BitVec.toInt_eq_toNat_cond, BitVec.toInt_eq_toNat_cond, complement_toNat]
  omega
/-- Adding the complement and the carry subtracts the operand and the borrow, modulo 256. -/
theorem addC_complement_result (a m : Byte) (c : Bool) :
    (addC a (m ^^^ 0xFF) c).result = BitVec.ofInt 8 ((a.toNat : Int) - m.toNat - borrow c) := by
  have hm := m.isLt
  apply BitVec.eq_of_toNat_eq
  rw [addC, BitVec.toNat_ofNat, BitVec.toNat_ofInt, complement_toNat, borrow_eq]
  omega

theorem addC_complement_carry_iff (a m : Byte) (c : Bool) :
    (addC a (m ^^^ 0xFF) c).carry = true ↔ (m.toNat : Int) + borrow c ≤ a.toNat := by
  have hm := m.isLt
  rw [addC, decide_eq_true_iff, complement_toNat, borrow_eq]
  omega

theorem addC_complement_overflow_iff (a m : Byte) (c : Bool) :
    (addC a (m ^^^ 0xFF) c).overflow = true ↔
      a.toInt - m.toInt - borrow c < -128 ∨ 127 < a.toInt - m.toInt - borrow c := by
  rw [addC_overflow_iff, complement_toInt, borrow_eq]
  omega

/-- Settles O40: SBC adds the complement of its operand byte (R142), which is a subtraction with borrow. -/
theorem sbcSubtractsWithBorrow : Obligations.SbcSubtractsWithBorrow := by
  intro i s hop
  have hadds : AddsToA (operandByte i s ^^^ 0xFF) s (readNext i s) := addsToA_readNext (by rw [hop]; rfl)
  refine ⟨readNext i s, exec_readNext (by rw [hop]; rfl) s, opcode_mem_of_rows (by decide) hop, ?regs, ?carry,
    hadds.overflow_formula, ?signed, hadds.a ▸ hadds.zn, hadds.kept, memoryKept_readNext i s, readNext_accesses i s,
    completed_readNext i s⟩
  case regs => rw [hadds.regs, addC_complement_result]; rfl
  case carry => rw [hadds.carry]; exact addC_complement_carry_iff _ _ _
  case signed => rw [hadds.overflow]; exact addC_complement_overflow_iff _ _ _

/-! ## CMP, CPX, CPY -/

/-- The register a compare compares (R144 to R146): `readEffect_of_compare` ties it to the operation. -/
def comparedRegister : Op → State → Byte
  | .cpx => State.x
  | .cpy => State.y
  | _ => State.a

theorem kind_of_compare : ∀ op ∈ [Op.cmp, .cpx, .cpy], op.kind = .read := by decide

theorem readEffect_of_compare (m : Byte) (s : State) :
    ∀ op ∈ [Op.cmp, .cpx, .cpy], readEffect op m s = setCompare (comparedRegister op s) m s := by
  simp only [List.forall_mem_cons]
  exact ⟨rfl, rfl, rfl, nofun⟩

theorem setCompare_flag_c_iff (reg m : Byte) (s : State) :
    (setCompare reg m s).flag .c = true ↔ m.toNat ≤ reg.toNat := by
  simp [setCompare, setZN_flag, cmpByte]

theorem znFrom_setCompare (reg m : Byte) (s : State) :
    ZNFrom (BitVec.ofNat 8 (reg.toNat + 0x100 - m.toNat)) (setCompare reg m s) := znFrom_setZN _ _

theorem flagsKept_setCompare (reg m : Byte) (s : State) : FlagsKept [.c, .z, .n] s (setCompare reg m s) := by
  intro f hf
  obtain ⟨hc, hz, hn⟩ : f ≠ .c ∧ f ≠ .z ∧ f ≠ .n := by simpa using hf
  rw [setCompare, setZN_flag, if_neg hn, if_neg hz, setFlag_flag, if_neg hc]

/-- Settles O43: a compare reads its operand byte and writes the comparator's C, Z and N (R143); the operation decides
the register compared, and none is written. -/
theorem comparesSetCarryZeroNegative : Obligations.ComparesSetCarryZeroNegative := by
  intro i s hop
  obtain ⟨hregs, hp⟩ := readNext_regs_and_p i s
  rw [readEffect_of_compare _ s i.op hop] at hregs hp
  refine ⟨readNext i s, comparedRegister i.op s, exec_readNext (kind_of_compare i.op hop) s,
    fun h => ⟨by rw [h]; rfl, opcode_mem_of_rows (by decide) h⟩,
    fun h => ⟨by rw [h]; rfl, opcode_mem_of_rows (by decide) h⟩,
    fun h => ⟨by rw [h]; rfl, opcode_mem_of_rows (by decide) h⟩,
    ?carry, (znFrom_setCompare _ _ s).congr hp, (flagsKept_setCompare _ _ s).congr hp, hregs,
    memoryKept_readNext i s, readNext_accesses i s, completed_readNext i s⟩
  case carry => rw [State.flag, hp]; exact setCompare_flag_c_iff _ _ s

end Sys2Proof.Machine

/-! Logic, bit test, shifts and rotates (44_logic_shift.md). -/

namespace Sys2Proof.Machine

/-! ## AND, ORA, EOR -/

theorem kind_of_logic : ∀ op ∈ [Op.and, .ora, .eor], op.kind = .read := by decide

/-- What a logic operation makes of the accumulator and its operand byte (R160 to R162): `readEffect_of_logic` ties it to
the operation. -/
def logicResult : Op → Byte → Byte → Byte
  | .and => fun a m => a &&& m
  | .ora => fun a m => a ||| m
  | _ => fun a m => a ^^^ m

theorem readEffect_of_logic (m : Byte) (s : State) : ∀ op ∈ [Op.and, .ora, .eor],
    readEffect op m s = (s.setA (logicResult op s.a m)).setZN (logicResult op s.a m) := by
  simp only [List.forall_mem_cons]
  exact ⟨rfl, rfl, rfl, nofun⟩

/-- Settles O44: a logic operation reads its operand byte, and the operation decides the byte that it puts in A and that Z
and N come from. -/
theorem logicWritesTheAccumulator : Obligations.LogicWritesTheAccumulator := by
  intro i s hop
  obtain ⟨hregs, hp⟩ := readNext_regs_and_p i s
  rw [readEffect_of_logic _ s i.op hop] at hregs hp
  have ha : (readNext i s).a = logicResult i.op s.a (operandByte i s) := congrArg Prod.fst hregs
  obtain ⟨hzn, hflags⟩ := znFrom_and_flagsKept hp
  exact ⟨readNext i s, exec_readNext (kind_of_logic i.op hop) s,
    fun h => ⟨by rw [ha, h]; rfl, opcode_mem_of_rows (by decide) h⟩,
    fun h => ⟨by rw [ha, h]; rfl, opcode_mem_of_rows (by decide) h⟩,
    fun h => ⟨by rw [ha, h]; rfl, opcode_mem_of_rows (by decide) h⟩,
    by rw [ha]; exact hregs, by rw [ha]; exact hzn, hflags, memoryKept_readNext i s, readNext_accesses i s,
    completed_readNext i s⟩

/-! ## BIT -/

/-- Both forms of BIT, ZeroPage and Absolute, have a fixed effective address, so no page crossing is signalled (R105). -/
theorem operandLoc_crossing_of_bit {i : Instr} (h : i.op = .bit) (s : State) : (operandLoc i s).crossing = 0 :=
  resolve_mayCross (Laws.instr_of_rows (P := fun _ op mode => op = .bit → mode.mayCross = false) (by decide) i h) s

theorem setBitTest_flag (m : Byte) (s : State) (f : Flag) : (setBitTest m s).flag f =
    if f = .v then m.getLsbD 6 else if f = .n then m.getLsbD 7 else if f = .z then s.a &&& m == 0 else s.flag f := by
  simp only [setBitTest, setFlag_flag]

theorem flagsKept_setBitTest (m : Byte) (s : State) : FlagsKept [.z, .v, .n] s (setBitTest m s) := by
  intro f hf
  obtain ⟨hz, hv, hn⟩ : f ≠ .z ∧ f ≠ .v ∧ f ≠ .n := by simpa using hf
  rw [setBitTest_flag, if_neg hv, if_neg hn, if_neg hz]

/-- Settles O45: BIT reads its operand byte and writes three flags of the state before: Z from the and, N and V from the
bits 7 and 6 of the byte itself. -/
theorem bitTestsTheOperand : Obligations.BitTestsTheOperand := by
  intro i s hop
  obtain ⟨hregs, hp⟩ := readNext_regs_and_p i s
  rw [hop] at hregs hp
  have hflag (f : Flag) : (readNext i s).flag f = (setBitTest (operandByte i s) s).flag f := congrArg (flagOf · f) hp
  refine ⟨readNext i s, exec_readNext (by rw [hop]; rfl) s, opcode_mem_of_rows (by decide) hop, ?z, ?n, ?v,
    (flagsKept_setBitTest _ s).congr hp, hregs, memoryKept_readNext i s, readNext_accesses i s, ?completed⟩
  case z => rw [hflag, setBitTest_flag]; exact beq_iff_eq
  case n => rw [hflag, setBitTest_flag]; exact bit7_iff _
  case v => rw [hflag, setBitTest_flag]; exact bit6_iff _
  case completed =>
    have hcompleted := completed_readNext i s
    rwa [operandLoc_crossing_of_bit hop s] at hcompleted

/-! ## The next state of a read-modify-write operation -/

/-- The byte a read-modify-write operation puts in place of its operand (R169). -/
def modifiedByte (i : Instr) (s : State) : Byte := (modifyEffect i.op (operandByte i s) s).1

/-- The status byte a read-modify-write operation has written before its store (R164, R169). -/
def modifiedP (i : Instr) (s : State) : Byte := (modifyEffect i.op (operandByte i s) s).2.p

/-- A read-modify-write operation depends on the operand byte and the flags alone, and writes the flags alone. -/
theorem modifyEffect_loaded (i : Instr) (s : State) :
    modifyEffect i.op (operandByte i s) (loaded i s) = (modifiedByte i s, (loaded i s).setP (modifiedP i s)) := by
  obtain ⟨n, hloaded⟩ := loaded_eq i s
  rw [hloaded, modifiedByte, modifiedP]
  cases i.op <;> rfl

/-- What every read-modify-write operation does (R169): its operand replaced, Z and N from the new byte, the registers but
the accumulator as they were, at most one read and then one write. -/
structure ModifiesOperand (i : Instr) (s t : State) : Prop where
  replaces  : Replaces (operandLoc i s) (modifiedByte i s) s t
  p         : t.p = putZN (modifiedP i s) (modifiedByte i s)
  regs      : t.regs = (t.a, s.x, s.y, s.sp, s.pc)
  accesses  : t.accesses = afterResolve i s ++ loadAccess (operandLoc i s) (operandByte i s) ++
    storeAccess (operandLoc i s) (modifiedByte i s)
  completed : Completed i 0 s t

theorem keeps_setA (s : State) (v : Byte) : Keeps s (s.setA v) := ⟨rfl, rfl, rfl, rfl, rfl, id⟩

/-- The operand is the accumulator, or one byte of memory at the effective address (R169). -/
theorem exec_modifiesOperand {i : Instr} (hk : i.op.kind = .modify) (s : State) :
    ∃ t, exec i s = .next t ∧ ModifiesOperand i s t := by
  have hkeeps : Keeps s ((loaded i s).setP (modifiedP i s)) := (keeps_loaded i s).trans (keeps_setP _ _)
  have hmodify := exec_modify hk (execute_modify hk) s
  simp only [modifyEffect_loaded] at hmodify
  obtain ⟨hloc, -, hexec⟩ | ⟨a, crossed, hloc, -, hexec⟩ := hmodify
  case inl =>
    refine ⟨_, hexec, ⟨?replaces, rfl, ?regs, ?accesses, ?completed⟩⟩
    case replaces => rw [hloc]; exact ⟨rfl, fun b => loaded_peek i s b⟩
    case regs => simp [State.regs]
    case accesses => simp [hloc, storeAccess]
    case completed => exact ((hkeeps.trans (keeps_setA _ _)).trans (keeps_setZN _ _)).completed i 0
  case inr =>
    refine ⟨_, hexec, ⟨?replaces, rfl, ?regs, ?accesses, ?completed⟩⟩
    case replaces => rw [hloc]; exact ⟨loaded_a i s, fun b => by simp [memWrite_peek]⟩
    case regs => simp [State.regs]
    case accesses => simp [hloc, storeAccess]
    case completed =>
      exact (((hkeeps.trans (keeps_memWrite a _ _)).trans (keeps_setZN _ _)).completed i _).of_cost
        (cost_no_extra (by simp [hk]) (.inl (by simp [hk])) _)

theorem ModifiesOperand.znFrom {i : Instr} {s t : State} (h : ModifiesOperand i s t) : ZNFrom (modifiedByte i s) t :=
  (znFrom_setZN (modifiedByte i s) (s.setP (modifiedP i s))).congr h.p

/-! ## ASL, LSR, ROL, ROR -/

theorem kind_of_shift : ∀ op ∈ [Op.asl, .lsr, .rol, .ror], op.kind = .modify := by decide

theorem modifyEffect_of_shift : ∀ op ∈ [Op.asl, .lsr, .rol, .ror], ∃ kind, modifyEffect op = shiftValue kind := by
  simp only [List.forall_mem_cons]
  exact ⟨⟨_, rfl⟩, ⟨_, rfl⟩, ⟨_, rfl⟩, ⟨_, rfl⟩, nofun⟩

theorem modifiedByte_of_shift {i : Instr} {kind : ShiftKind} (hshift : modifyEffect i.op = shiftValue kind) (s : State) :
    modifiedByte i s = (shiftByte kind (operandByte i s) (s.flag .c)).1 := by
  rw [modifiedByte, hshift]
  rfl

theorem modifiedP_of_shift {i : Instr} {kind : ShiftKind} (hshift : modifyEffect i.op = shiftValue kind) (s : State) :
    modifiedP i s = putFlag s.p .c (shiftByte kind (operandByte i s) (s.flag .c)).2 := by
  rw [modifiedP, hshift]
  rfl

section
variable {i : Instr} {s t : State} {kind : ShiftKind}

/-- The flags after a shift (R164, R169): C is the bit shifted off, and `SetZN` of the new byte leaves it. -/
theorem ModifiesOperand.flag_of_shift (h : ModifiesOperand i s t)
    (hshift : modifyEffect i.op = shiftValue kind) {f : Flag} (hz : f ≠ .z) (hn : f ≠ .n) :
    t.flag f = if f = .c then (shiftByte kind (operandByte i s) (s.flag .c)).2 else s.flag f := by
  rw [State.flag, h.p, flagOf_putZN, if_neg hn, if_neg hz, modifiedP_of_shift hshift, flagOf_putFlag]
  rfl

theorem ModifiesOperand.carry_of_shift (h : ModifiesOperand i s t) (hshift : modifyEffect i.op = shiftValue kind) :
    t.flag .c = (shiftByte kind (operandByte i s) (s.flag .c)).2 :=
  h.flag_of_shift hshift nofun nofun

theorem ModifiesOperand.flagsKept_of_shift (h : ModifiesOperand i s t)
    (hshift : modifyEffect i.op = shiftValue kind) : FlagsKept [.c, .z, .n] s t := by
  intro f hf
  obtain ⟨hc, hz, hn⟩ : f ≠ .c ∧ f ≠ .z ∧ f ≠ .n := by simpa using hf
  rw [h.flag_of_shift hshift hz hn, if_neg hc]

/-- The new byte and the carry of a shift are the outputs of `Shift` on the operand byte and the old C (R164). -/
theorem ModifiesOperand.shifted {r : Byte} {p : Prop} (h : ModifiesOperand i s t)
    (hshift : modifyEffect i.op = shiftValue kind)
    (hresult : (shiftByte kind (operandByte i s) (s.flag .c)).1 = r)
    (hcarry : (shiftByte kind (operandByte i s) (s.flag .c)).2 = true ↔ p) :
    modifiedByte i s = r ∧ (t.flag .c = true ↔ p) :=
  ⟨(modifiedByte_of_shift hshift s).trans hresult, by rwa [h.carry_of_shift hshift]⟩

end

theorem asl_eq_ofNat (v : Byte) (c : Bool) : (shiftByte .asl v c).1 = BitVec.ofNat 8 (v.toNat * 2) :=
  BitVec.eq_of_toNat_eq (by rw [asl_toNat, BitVec.toNat_ofNat])

theorem lsr_eq_ofNat (v : Byte) (c : Bool) : (shiftByte .lsr v c).1 = BitVec.ofNat 8 (v.toNat / 2) := by
  have hv := v.isLt
  exact BitVec.eq_of_toNat_eq (by rw [lsr_toNat, BitVec.toNat_ofNat]; omega)

theorem rol_eq_ofNat (v : Byte) (c : Bool) : (shiftByte .rol v c).1 = BitVec.ofNat 8 (v.toNat * 2 + bitNat c) :=
  BitVec.eq_of_toNat_eq (by rw [rol_toNat, BitVec.toNat_ofNat])

theorem ror_eq_ofNat (v : Byte) (c : Bool) :
    (shiftByte .ror v c).1 = BitVec.ofNat 8 (v.toNat / 2 + 0x80 * bitNat c) := by
  have hv := v.isLt
  have hc := bitNat_lt c
  exact BitVec.eq_of_toNat_eq (by rw [ror_toNat, BitVec.toNat_ofNat]; omega)

/-- Settles O46: a shift is a read-modify-write operation (R169), so `ModifiesOperand` says what becomes of its operand; the
operation decides which of the four shifts of R164 gives the new byte, as a number, and the bit shifted off. -/
theorem shiftsReplaceTheirOperand : Obligations.ShiftsReplaceTheirOperand := by
  intro i s hop
  obtain ⟨t, hexec, ht⟩ := exec_modifiesOperand (kind_of_shift i.op hop) s
  obtain ⟨kind, hshift⟩ := modifyEffect_of_shift i.op hop
  exact ⟨t, modifiedByte i s, hexec,
    fun h => ⟨opcode_mem_of_rows (by decide) h, ht.shifted (by rw [h]; rfl) (asl_eq_ofNat _ _) (bit7_iff _)⟩,
    fun h => ⟨opcode_mem_of_rows (by decide) h, ht.shifted (by rw [h]; rfl) (lsr_eq_ofNat _ _) (bit0_iff _)⟩,
    fun h => ⟨opcode_mem_of_rows (by decide) h, ht.shifted (by rw [h]; rfl) (rol_eq_ofNat _ _) (bit7_iff _)⟩,
    fun h => ⟨opcode_mem_of_rows (by decide) h, ht.shifted (by rw [h]; rfl) (ror_eq_ofNat _ _) (bit0_iff _)⟩,
    ht.replaces, ht.znFrom, ht.flagsKept_of_shift hshift, ht.regs, ht.accesses, ht.completed⟩

end Sys2Proof.Machine

/-! Increments and decrements (45_incdec.md). -/

namespace Sys2Proof.Machine

/-! ## INC, DEC -/

theorem kind_of_incDec {o : Op} (h : o = .inc ∨ o = .dec) : o.kind = .modify := by
  obtain rfl | rfl := h <;> rfl

/-- There is no accumulator form (R180, R181): no row of the table gives INC or DEC that mode. -/
theorem operand_ne_acc_of_incDec {i : Instr} (h : i.op = .inc ∨ i.op = .dec) : i.operand ≠ .acc := by
  have hmode : i.operand.mode ≠ .acc :=
    Laws.instr_of_rows (P := fun _ o m => o = .inc ∨ o = .dec → m ≠ .acc) (by decide) i h
  exact fun hacc => hmode (congrArg Operand.mode hacc)

/-- A read-modify-write operation on memory keeps all five registers (R169). -/
theorem ModifiesOperand.regs_of_ne_acc {i : Instr} {s t : State} (h : ModifiesOperand i s t)
    (hk : i.op.kind = .modify) (hacc : i.operand ≠ .acc) : t.regs = s.regs := by
  obtain ⟨ho, -⟩ | ⟨-, a, crossed, hloc⟩ := modify_loc hk s
  case inl => exact absurd ho hacc
  case inr =>
    have hreplaces := h.replaces
    rw [hloc] at hreplaces
    obtain ⟨ha, -⟩ := hreplaces
    rw [h.regs, ha]
    rfl

/-- INC and DEC write no flag before `SetZN`: the carry is neither read nor written (R180, R181). -/
theorem modifiedP_of_incDec {i : Instr} (h : i.op = .inc ∨ i.op = .dec) (s : State) : modifiedP i s = s.p := by
  obtain hop | hop := h <;> rw [modifiedP, hop] <;> rfl

theorem add_one_eq_ofNat (v : Byte) : v + 1 = BitVec.ofNat 8 (v.toNat + 1) :=
  BitVec.eq_of_toNat_eq (by rw [BitVec.toNat_add, BitVec.toNat_ofNat]; rfl)

/-- One less modulo 256 is 255 more. -/
theorem sub_one_eq_ofNat (v : Byte) : v - 1 = BitVec.ofNat 8 (v.toNat + 255) :=
  BitVec.eq_of_toNat_eq (by rw [BitVec.toNat_sub, BitVec.toNat_ofNat, Nat.add_comm]; rfl)

theorem modifiedByte_of_inc {i : Instr} (h : i.op = .inc) (s : State) :
    modifiedByte i s = BitVec.ofNat 8 ((operandByte i s).toNat + 1) := by
  rw [modifiedByte, h]
  exact add_one_eq_ofNat _

theorem modifiedByte_of_dec {i : Instr} (h : i.op = .dec) (s : State) :
    modifiedByte i s = BitVec.ofNat 8 ((operandByte i s).toNat + 255) := by
  rw [modifiedByte, h]
  exact sub_one_eq_ofNat _

/-- Settles O47: INC and DEC are read-modify-write operations (R169) on memory only, so `ModifiesOperand` says what becomes
of the byte and the registers stay; the status byte is `SetZN` of the new byte, and the operation decides that byte. -/
theorem incAndDecReplaceAByte : Obligations.IncAndDecReplaceAByte := by
  intro i s hop
  have hk : i.op.kind = .modify := kind_of_incDec hop
  obtain ⟨t, hexec, ht⟩ := exec_modifiesOperand hk s
  have hp : t.p = putZN s.p (modifiedByte i s) := by rw [ht.p, modifiedP_of_incDec hop]
  obtain ⟨hzn, hflags⟩ := znFrom_and_flagsKept hp
  exact ⟨t, modifiedByte i s, hexec,
    fun h => ⟨opcode_mem_of_rows (by decide) h, modifiedByte_of_inc h s⟩,
    fun h => ⟨opcode_mem_of_rows (by decide) h, modifiedByte_of_dec h s⟩,
    ht.replaces, hzn, hflags, ht.regs_of_ne_acc hk (operand_ne_acc_of_incDec hop), ht.accesses, ht.completed⟩

/-! ## INX, INY, DEX, DEY -/

/-- An implied operation whose effect writes registers with Z and N from one byte, without a bus access: the next state is
that effect with the cycles added (R92, R116). -/
theorem Transfers.exec_implied {i : Instr} {v : Byte} {regs : Byte × Byte × Byte × Byte × Word} {s : State}
    (h : Transfers v regs s (impliedEffect i.op s)) (hk : i.op.kind = .implied) :
    ∃ t, exec i s = .next t ∧ Transfers v regs s t ∧ Completed i 0 s t :=
  ⟨_, exec_implied_effect hk s, ⟨h.regs, h.p, h.memory, h.accesses⟩, (keeps_impliedEffect i.op s).completed i 0⟩

/-- Settles O48: each of the four rows is an implied instruction of 2 cycles (R182 to R185) whose effect writes the counted
register and Z and N from it. -/
theorem indexRegistersCountModulo256 : Obligations.IndexRegistersCountModulo256 := by
  intro s r hr
  obtain ⟨hk, henc, hcost, heffect⟩ : r.1.op.kind = .implied ∧ encode r.1 = [r.2.1] ∧ cost r.1 0 = 2 ∧
      Transfers r.2.2.1 r.2.2.2 s (impliedEffect r.1.op s) := by
    revert r
    simp only [List.forall_mem_cons]
    refine ⟨?inx, ?iny, ?dex, ?dey, nofun⟩
    all_goals exact ⟨rfl, rfl, rfl, ⟨rfl, rfl, fun _ => rfl, rfl⟩⟩
  obtain ⟨t, hexec, ht, hcompleted⟩ := heffect.exec_implied hk
  obtain ⟨hzn, hflags⟩ := znFrom_and_flagsKept ht.p
  exact ⟨t, hexec, henc, ht.regs, hzn, hflags, ht.memory, ht.accesses, by rw [hcompleted.clk, hcost], hcompleted⟩

end Sys2Proof.Machine

/-! Jumps (46_branch_jump.md R199). -/

namespace Sys2Proof.Machine

/-- The modes of a jump, Absolute and Indirect, have a fixed effective address, so no page crossing is signalled (R105). -/
theorem operandLoc_crossing_of_jmp {i : Instr} (h : i.op = .jmp) (s : State) : (operandLoc i s).crossing = 0 :=
  resolve_mayCross (Laws.instr_of_rows (P := fun _ op mode => op = .jmp → mode.mayCross = false) (by decide) i h) s

theorem crossing_memLoc_eq_zero_iff {a : Word} {crossed : Bool} :
    (Loc.memLoc a crossed).crossing = 0 ↔ crossed = false := by
  cases crossed <;> simp [Loc.crossing, bitNat]

theorem cost_jmpAbs (w : Word) : cost (.jmpAbs w) 0 = 3 :=
  cost_of_row (i := .jmpAbs w) (rfl : descriptor 0x4C = some ⟨.jmp, .abs, 3, false⟩) 0

theorem cost_jmpInd (w : Word) : cost (.jmpInd w) 0 = 5 :=
  cost_of_row (i := .jmpInd w) (rfl : descriptor 0x6C = some ⟨.jmp, .ind, 5, false⟩) 0

/-- A jump puts its effective address in PC, after the pointer reads of its operand, and signals no extra cycle (R199). -/
theorem exec_jmp {i : Instr} (h : i.op = .jmp) (s : State) : ∃ a, operandLoc i s = .memLoc a false ∧
    exec i s = .next (((resolve i.operand s).2.setPc a).addClk (cost i 0)) := by
  obtain ⟨a, crossed, hloc, hexec⟩ := exec_target_effect (i := i) (.inl (by rw [h]; rfl)) s
  have hcrossing : (operandLoc i s).crossing = 0 := operandLoc_crossing_of_jmp h s
  obtain rfl : crossed = false := crossing_memLoc_eq_zero_iff.mp (hloc ▸ hcrossing)
  rw [hcrossing, h] at hexec
  exact ⟨a, hloc, hexec⟩

/-- Settles O50: by `exec_jmp` a jump writes PC and CLK alone after resolving its operand, which changes only the record and
the forwarded count; the form decides the address and the cost. -/
theorem jmpSetsPcToTheEffectiveAddress : Obligations.JmpSetsPcToTheEffectiveAddress := by
  intro i s hop
  obtain ⟨a, hloc, hexec⟩ := exec_jmp hop s
  have hkeeps : Keeps s ((resolve i.operand s).2.setPc a) := (keeps_resolve i.operand s).trans (keeps_setPc _ a)
  have hcompleted := hkeeps.completed i 0
  refine ⟨_, a, hexec, hloc, ?regs, resolve_p i.operand s, ?abs, ?ind, resolve_peek i.operand s, rfl, hcompleted⟩
  case regs => simp [State.regs]
  case abs =>
    rintro w rfl
    exact ⟨(Loc.memLoc.inj hloc).1.symm, rfl, by rw [hcompleted.clk, cost_jmpAbs]⟩
  case ind =>
    rintro w rfl
    exact ⟨(Loc.memLoc.inj hloc).1.symm, rfl, by rw [hcompleted.clk, cost_jmpInd]⟩

end Sys2Proof.Machine

/-! The flag-control instructions (47_stack_flag_system.md R218 to R224). -/

namespace Sys2Proof.Machine

/-- Settles O57: each of the seven rows is an implied instruction of 2 cycles whose effect is one `setFlag`; the next state
is that effect with the cycles added, and `setFlag` writes one bit of P alone. -/
theorem flagInstructionsWriteOneBit : Obligations.FlagInstructionsWriteOneBit := by
  intro s r hr
  obtain ⟨hk, henc, hcost, heffect⟩ : r.1.op.kind = .implied ∧ encode r.1 = [r.2.1] ∧ cost r.1 0 = 2 ∧
      impliedEffect r.1.op s = s.setFlag r.2.2.1 r.2.2.2 := by
    revert r
    simp only [List.forall_mem_cons]
    refine ⟨?clc, ?sec, ?cli, ?sei, ?clv, ?cld, ?sed, nofun⟩
    all_goals exact ⟨rfl, rfl, rfl, rfl⟩
  have hexec := exec_implied_effect hk s
  have hcompleted : Completed r.1 0 s ((impliedEffect r.1.op s).addClk (cost r.1 0)) :=
    (keeps_impliedEffect r.1.op s).completed r.1 0
  rw [heffect] at hexec hcompleted
  exact ⟨_, hexec, henc, setFlag_flag_same s _ _, (flagsKept_setFlag s _ _).congr rfl, rfl, fun _ => rfl, rfl,
    by rw [hcompleted.clk, hcost], hcompleted⟩

end Sys2Proof.Machine

/-! Reset (70_reset_and_hazards.md R270, R271). -/

namespace Sys2Proof.Machine

/-- Bit 2 of `P_RESET`, which R6 asks to be 1, is the flag I (R18). -/
theorem pReset_flag_i_of_wf {p : Params} (h : p.wf = true) : flagOf p.pReset .i = true := by
  obtain ⟨hbit, -⟩ := Bool.and_eq_true_iff.mp h
  exact hbit

@[simp] theorem applyReset_sp (s : State) : (applyReset s).sp = 0xFD := rfl

@[simp] theorem applyReset_p (s : State) : (applyReset s).p = s.params.pReset := rfl

/-- RESET sets I, with parameters as R6 asks. -/
theorem applyReset_flag_i {s : State} (hwf : s.params.wf = true) : (applyReset s).flag .i = true := by
  rw [State.flag, applyReset_p, pReset_flag_i_of_wf hwf]

/-- RESET enters at the word the vector's two bytes make. -/
theorem applyReset_pc_of_peek {s : State} {l h : Byte} (hl : s.peek resetVector = some l)
    (hh : s.peek (resetVector + 1) = some h) : (applyReset s).pc = join h l := by
  obtain ⟨n, he⟩ := applyReset_eq s
  rw [he]
  exact congrArg Prod.fst (readPair_of_peek hl hh)

/-- Settles O15: in `State.reset` both vector bytes are unlisted, so PC is 0; for any RESET, SP is a constant, I is bit 2 of
`P_RESET`, and PC is the pair read at the vector. -/
theorem resetValuesTheSourceFixes : Obligations.ResetValuesTheSourceFixes := by
  refine ⟨⟨rfl, rfl, 0x00, 0x00, rfl, rfl, rfl⟩, fun s l h hwf hl hh => ?reset⟩
  case reset => exact ⟨applyReset_sp s, applyReset_flag_i hwf, applyReset_pc_of_peek hl hh⟩

end Sys2Proof.Machine

/-! The encoding: decoder and encoder undo each other (30_encoding.md R70 to R76). -/

namespace Sys2Proof.Laws

open Sys2Proof.Machine

/-- An operand form has as many bytes as its mode says (R71). -/
theorem bytes_length (o : Operand) : o.bytes.length = o.mode.oplen := by
  cases o <;> rfl

/-- With as many operand bytes as its row's mode has, an opcode byte decodes to what the row makes of them (R72, R76). -/
theorem decode_operandBytes {op : Byte} {r : TableRow} (h : lookup op = some r) {bs : List Byte}
    (hlen : bs.length = r.desc.mode.oplen) (rest : List Byte) :
    decode (op :: (bs ++ rest)) = .ok (r.make (bs.getD 0 0) (bs.getD 1 0), rest) := by
  obtain e | e | e := oplen_le r.desc.mode
  · obtain rfl := List.eq_nil_of_length_eq_zero (hlen.trans e)
    exact (decode_row h 0 0 rest).1 e
  · obtain ⟨b1, rfl⟩ := List.length_eq_one_iff.mp (hlen.trans e)
    exact (decode_row h b1 0 rest).2.1 e
  · obtain ⟨b1, b2, rfl⟩ := List.length_eq_two.mp (hlen.trans e)
    exact (decode_row h b1 b2 rest).2.2 e

/-- Bytes decode in no other way: the opcode byte has a row, and what the row makes of the operand bytes is the answer. -/
theorem decode_eq_ok {bytes rest : List Byte} {i : Instr} (h : decode bytes = .ok (i, rest)) :
    ∃ op r bs, lookup op = some r ∧ bs.length = r.desc.mode.oplen ∧ bytes = op :: (bs ++ rest) ∧
      i = r.make (bs.getD 0 0) (bs.getD 1 0) := by
  unfold decode at h
  split at h
  case h_1 => cases h
  case h_2 op tail =>
    split at h
    case h_1 => cases h
    case h_2 r hr =>
      refine ⟨op, r, ?_⟩
      split at h
      case h_1 hlen =>
        cases h
        exact ⟨[], hr, hlen.symm, rfl, rfl⟩
      case h_2 b1 _ hlen =>
        cases h
        exact ⟨[b1], hr, hlen.symm, rfl, rfl⟩
      case h_3 b1 b2 _ h0 h1 =>
        cases h
        have hlen : r.desc.mode.oplen = 2 := by
          have := oplen_le r.desc.mode
          tauto
        exact ⟨[b1, b2], hr, hlen.symm, rfl, rfl⟩
      case h_4 => cases h

/-- Every instruction is made by the row at its opcode, from its own operand bytes (R72, R74). -/
theorem lookup_opcode (i : Instr) : ∃ r, lookup i.opcode = some r ∧ r.desc.mode = i.operand.mode ∧
    r.make (i.operand.bytes.getD 0 0) (i.operand.bytes.getD 1 0) = i := by
  obtain ⟨⟨c, x, hdesc⟩, hmake⟩ := tableRow_all i
  obtain ⟨r, hr, hd⟩ := Option.map_eq_some_iff.mp hdesc
  rw [hr] at hmake
  exact ⟨r, hr, congrArg Descriptor.mode hd, Option.some.inj hmake⟩

/-- Settles O1: the row at the instruction's opcode asks for exactly its operand bytes and makes the instruction of them. -/
theorem decodeOfEncodeIsTheInstruction : Obligations.DecodeOfEncodeIsTheInstruction := by
  intro i rest
  obtain ⟨r, hr, hmode, hmake⟩ := lookup_opcode i
  have hlen : i.operand.bytes.length = r.desc.mode.oplen := by rw [hmode, bytes_length]
  calc decode (encode i ++ rest) = decode (i.opcode :: (i.operand.bytes ++ rest)) := rfl
    _ = .ok (i, rest) := by rw [decode_operandBytes hr hlen, hmake]

theorem length_take_oplen (b1 b2 : Byte) (m : Mode) : ([b1, b2].take m.oplen).length = m.oplen := by
  cases m <;> rfl

/-- The first bytes of a list of operand bytes, padded with zeros, are the list. -/
theorem take_getD {bs : List Byte} {m : Mode} (h : bs.length = m.oplen) :
    [bs.getD 0 0, bs.getD 1 0].take m.oplen = bs := by
  obtain e | e | e := oplen_le m <;> rw [e] at h ⊢
  · exact (List.eq_nil_of_length_eq_zero h).symm
  · obtain ⟨b1, rfl⟩ := List.length_eq_one_iff.mp h
    rfl
  · obtain ⟨b1, b2, rfl⟩ := List.length_eq_two.mp h
    rfl

/-- Settles O2: what the row makes has the row's opcode and, as operand bytes, the bytes it was made of. -/
theorem decodedBytesAreTheEncoding : Obligations.DecodedBytesAreTheEncoding := by
  intro bytes rest i h
  obtain ⟨op, r, bs, hr, hlen, rfl, rfl⟩ := decode_eq_ok h
  obtain ⟨hopcode, hmakes⟩ := lookup_some hr
  obtain ⟨-, -, hop, hbytes⟩ := hmakes (bs.getD 0 0) (bs.getD 1 0)
  rw [take_getD hlen] at hbytes
  rw [encode, hop, hopcode, hbytes]
  rfl

/-- The table has no row for exactly the 105 opcode bytes of R75: a check of the 256 opcode bytes. -/
theorem descriptor_eq_none_iff (op : Byte) : descriptor op = none ↔ op ∈ illegalOpcodes := by
  have hall : ∀ n < 256, descriptor (BitVec.ofNat 8 n) = none ↔ BitVec.ofNat 8 n ∈ illegalOpcodes := by decide +kernel
  have hop := hall op.toNat op.isLt
  rwa [BitVec.ofNat_toNat, BitVec.setWidth_eq] at hop

theorem lookup_eq_none_iff (op : Byte) : lookup op = none ↔ op ∈ illegalOpcodes := by
  rw [← descriptor_eq_none_iff, descriptor, Option.map_eq_none_iff]

/-- An operand is assembled from its bytes as R72 says, a 16-bit address with byte 1 low. -/
theorem operand_of_bytes {o : Operand} {b1 b2 : Byte} (h : o.bytes = [b1, b2].take o.mode.oplen) :
    o ∈ [Operand.imp, .acc, .imm b1, .zp b1, .zpx b1, .zpy b1, .abs (join b2 b1), .abx (join b2 b1), .aby (join b2 b1),
      .ind (join b2 b1), .izx b1, .izy b1, .rel b1] := by
  have hword (a : Word) (h : [lo a, hi a] = [b1, b2]) : a = join b2 b1 := by
    obtain ⟨rfl, rfl⟩ : lo a = b1 ∧ hi a = b2 := by simpa using h
    exact (join_hi_lo a).symm
  have hbyte (b : Byte) (h : [b] = [b1]) : b = b1 := List.singleton_inj.mp h
  cases o
  case imp | acc => simp
  case abs a | abx a | aby a | ind a => simp [hword a h]
  case imm b | zp b | zpx b | zpy b | izx b | izy b | rel b => simp [hbyte b h]

/-- What a row makes of two bytes that follow its opcode depends on the first `oplen` of them alone. -/
theorem make_take {op : Byte} {r : TableRow} (hr : lookup op = some r) (b1 b2 : Byte) :
    let i := r.make (([b1, b2].take r.desc.mode.oplen).getD 0 0) (([b1, b2].take r.desc.mode.oplen).getD 1 0)
    i.op = r.desc.op ∧ i.operand.mode = r.desc.mode ∧ i.operand.bytes = [b1, b2].take i.operand.mode.oplen := by
  intro i
  obtain ⟨hop, hmode, -, hbytes⟩ : i.op = r.desc.op ∧ i.operand.mode = r.desc.mode ∧ _ := (lookup_some hr).2 _ _
  exact ⟨hop, hmode, by rw [hbytes, take_getD (length_take_oplen b1 b2 _), hmode]⟩

/-- Settles O3: the rows of the 256 opcode bytes are checked once, and what a row makes is `RowMakes`. -/
theorem decoderIsTotalOnOpcodeBytes : Obligations.DecoderIsTotalOnOpcodeBytes := by
  refine ⟨rfl, by decide, descriptor_eq_none_iff, fun op rest h => ?rejected, fun op b1 b2 rest h => ?decoded⟩
  case rejected => simp only [decode, (lookup_eq_none_iff op).mpr h]
  case decoded =>
    obtain ⟨r, hr⟩ := Option.ne_none_iff_exists'.mp (mt (lookup_eq_none_iff op).mp h)
    obtain ⟨hop, hmode, hbytes⟩ := make_take hr b1 b2
    refine ⟨r.desc, _, by rw [descriptor, hr]; rfl, hop, hmode, by rw [Instr.length, hmode], operand_of_bytes hbytes, ?_⟩
    have hsplit : b1 :: b2 :: rest =
        [b1, b2].take r.desc.mode.oplen ++ (b1 :: b2 :: rest).drop r.desc.mode.oplen := by
      cases r.desc.mode <;> rfl
    conv_lhs => rw [hsplit]
    exact decode_operandBytes hr (length_take_oplen b1 b2 _) _

theorem descriptor_of_opcodeRows : ∀ r ∈ opcodeRows, descriptor r.1 = some r.2 := by
  decide +kernel

/-- Every row of the dispatch table stands in `opcodeRows` (R74). -/
theorem tableRows_mem_opcodeRows : ∀ n < 16, ∀ r ∈ tableRows n, (r.opcode, r.desc) ∈ opcodeRows := by
  decide

/-- Settles O5: the 151 rows are checked against the table in both directions, and an instruction's descriptor is the one of
its own row. -/
theorem wordsOfTheSyntaxTableDecode : Obligations.WordsOfTheSyntaxTableDecode := by
  refine ⟨rfl, by decide +kernel, descriptor_of_opcodeRows, fun i => ?instruction,
    rfl, rfl, rfl, rfl, rfl, rfl, rfl, rfl, rfl, rfl, rfl, rfl, rfl, rfl⟩
  case instruction =>
    obtain ⟨c, x, hdesc⟩ := (tableRow_all i).1
    exact ⟨_, descriptor_of_rows (P := fun op d => (op, d) ∈ opcodeRows) tableRows_mem_opcodeRows hdesc, rfl, rfl,
      rfl, cost_of_row hdesc⟩

end Sys2Proof.Laws

/-! The step: fetch, invariant, faults and the clock (41_execution_loop.md R110 to R121, 60_exceptions.md R240, R241). -/

namespace Sys2Proof.Machine

/-! ## The fetch -/

/-- Settles O7: by induction on the bytes, each read at PC as it then is. -/
theorem fetchReadsConsecutiveBytes : Obligations.FetchReadsConsecutiveBytes := by
  intro bs
  induction bs with
  | nil => intro s _; simp [fetchN, fetchAccesses]
  | cons v bs ih =>
    intro s h
    have hfirst : s.peek s.pc = some v := by
      have h0 := h 0 (by simp)
      rwa [BitVec.add_zero] at h0
    have hpc (k : Nat) : s.pc + 1 + BitVec.ofNat 16 k = s.pc + BitVec.ofNat 16 (k + 1) := by
      rw [Nat.add_comm k 1, BitVec.ofNat_add, BitVec.add_assoc]
      rfl
    have hrest := ih (fetch8 s).2 fun k hk => by
      rw [fetch8_of_peek hfirst]
      show s.peek (s.pc + 1 + BitVec.ofNat 16 k) = some bs[k]
      rw [hpc]
      exact h (k + 1) (by simpa using hk)
    rw [fetch8_of_peek hfirst] at hrest
    simp only [List.length_cons, fetchN, fetch8_of_peek hfirst, hrest, hpc, fetchAccesses, List.append_assoc,
      List.cons_append, List.nil_append]

/-- A fetch is determined by the opcode byte and the bytes that its mode asks for: the bytes that decode are those. -/
theorem length_of_decode {op : Byte} {bs : List Byte} {i : Instr} (h : decode (op :: bs) = .ok (i, [])) :
    ∃ d, descriptor op = some d ∧ bs.length = d.mode.oplen := by
  obtain ⟨op', r, args, hr, hlen, hbytes, -⟩ := Laws.decode_eq_ok h
  obtain ⟨rfl, rfl⟩ : op = op' ∧ bs = args := by simpa using hbytes
  exact ⟨r.desc, by rw [descriptor, hr]; rfl, hlen⟩

/-- Settles O6: the bytes that decode are one opcode byte, which is the one at PC, and as many as its mode asks for, so the
fetch of the step is theirs. -/
theorem stepRunsTheDecodedInstruction : Obligations.StepRunsTheDecodedInstruction := by
  intro s bs i hfault hinterrupt hdec hfetch
  match bs with
  | [] => cases hdec
  | op :: args =>
    obtain ⟨d, hd, hlen⟩ := length_of_decode hdec
    have hop : s.beginStep.busByte s.beginStep.pc = op := (List.cons.inj hfetch).1
    have hcount : (op :: args).length = 1 + d.mode.oplen := by rw [List.length_cons, hlen, Nat.add_comm]
    obtain ⟨j, hj, hinstr⟩ := fetchInstr_instr (s := s.beginStep) (hop.symm ▸ hd)
    rw [← hcount] at hj hinstr
    rw [hfetch, hdec] at hj
    obtain rfl : i = j := congrArg Prod.fst (Except.ok.inj hj)
    rw [step_fetch hfault hinterrupt, runInstruction, hinstr]

/-! ## The next state -/

theorem step_exists {s : State} (h : s.fault = none) : ∃ t, step s = .next t := by
  obtain ⟨t, -, ht⟩ | ⟨-, i, n, -, hstep⟩ | ⟨-, -, n, ht⟩ := step_cases h
  · exact ⟨t, ht⟩
  · obtain ⟨e, t, -, ht, -⟩ := exec_next i (fetchN n s.beginStep).2
    exact ⟨t, hstep.trans ht⟩
  · exact ⟨_, ht⟩

theorem fault_of_step {s t : State} (h : step s = .next t) : s.fault = none := by
  cases hf : s.fault with
  | none => rfl
  | some r => rw [step_faulted hf] at h; cases h

/-- How a step ends: an interrupt entry, a completed instruction, or the record of an illegal opcode. -/
inductive StepEnd (s t : State) : Prop where
  | entry (taken : (interruptStep s.beginStep).isSome = true) (fault : t.fault = none)
      (clk : t.clk = s.clk + s.params.intCycles)
  | completed (notTaken : interruptStep s.beginStep = none) (fault : t.fault = none) (least : s.clk + 2 ≤ t.clk)
      (most : t.clk ≤ s.clk + 7)
  | illegal (opcode : Byte) (noDescriptor : descriptor opcode = none) (pc : t.pc = s.pc)
      (fault : t.fault = some (.illegalOpcode opcode s.pc)) (clk : t.clk = s.clk)

/-- What every step keeps, and how it ends. -/
structure StepKeeps (s t : State) : Prop where
  params : t.params = s.params
  wf     : Memory.wf s.mem = true → Memory.wf t.mem = true
  ends   : StepEnd s t

theorem stepKeeps_of_step {s t : State} (h : step s = .next t) : StepKeeps s t := by
  have hfault := fault_of_step h
  obtain ⟨u, hu, hstep⟩ | ⟨hnone, i, n, -, hstep⟩ | ⟨-, hd, n, hstep⟩ := step_cases hfault
  case inl =>
    obtain rfl : u = t := by simpa [hstep] using h
    obtain ⟨hclk, hf, -, hparams, -, hwf⟩ := interruptStep_keeps hu
    exact ⟨hparams, hwf, .entry (by rw [hu]; rfl) (hf.trans hfault) hclk⟩
  case inr.inl =>
    obtain ⟨e, u, he, hexec, hdone, hwf⟩ := exec_next i (fetchN n s.beginStep).2
    obtain rfl : u = t := by simpa [hstep, hexec] using h
    have hfetch := keeps_fetchN n s.beginStep
    have hcost := cost_bounds i he
    have hclk : u.clk = s.clk + cost i e := by rw [hdone.clk, hfetch.clk]; rfl
    exact ⟨hdone.params.trans hfetch.params, hwf ∘ hfetch.wf,
      .completed hnone ((hdone.fault.trans hfetch.fault).trans hfault) (by omega) (by omega)⟩
  case inr.inr =>
    obtain rfl := Host.Outcome.next.inj (hstep.symm.trans h)
    exact ⟨rfl, id, .illegal _ hd rfl rfl rfl⟩

/-- Settles O10: the only record a step can make is of an opcode byte without descriptor. -/
theorem unfaultedCoreAlwaysSteps : Obligations.UnfaultedCoreAlwaysSteps := by
  intro s hs
  obtain ⟨t, ht⟩ := step_exists hs
  refine ⟨t, ht, ?_⟩
  cases (stepKeeps_of_step ht).ends with
  | entry _ hfault _ => exact .inl hfault
  | completed _ hfault _ _ => exact .inl hfault
  | illegal op hd _ hfault _ => exact .inr ⟨op, s.pc, hfault, (Laws.descriptor_eq_none_iff op).mp hd⟩

theorem step_illegal {s : State} (hfault : s.fault = none) (hnone : interruptStep s.beginStep = none)
    (hd : descriptor (s.busByte s.pc) = none) : ∃ n, step s = .next { s with
      fault := some (.illegalOpcode (s.busByte s.pc) s.pc)
      accesses := [.read s.pc (s.busByte s.pc)]
      deviceCount := n } := by
  obtain ⟨n, hfetch⟩ := fetchInstr_illegal (s := s.beginStep) hd
  exact ⟨n, by rw [step_fetch hfault hnone, runInstruction, hfetch]; rfl⟩

/-- Settles O8: `step_illegal` gives the next state field by field. -/
theorem illegalOpcodeStopsTheCore : Obligations.IllegalOpcodeStopsTheCore := by
  intro s hfault hnone hop
  obtain ⟨n, hstep⟩ := step_illegal hfault hnone ((Laws.descriptor_eq_none_iff _).mpr hop)
  exact ⟨_, hstep, rfl, rfl, rfl, rfl, rfl, rfl, fun _ => rfl, rfl, rfl⟩

/-- The loop of `step_to` does not step once the clock has reached the target or a fault is recorded (R119). -/
theorem stepLoop_stop {target : Nat} {s : State} (h : ¬(s.clk < target ∧ s.fault = none)) (fuel : Nat) :
    stepLoop fuel target s = s := by
  cases fuel with
  | zero => rfl
  | succ fuel => rw [stepLoop, if_neg h]

theorem applyReset_fault (s : State) : (applyReset s).fault = none := rfl

/-- Settles O9: `step` and `step_to` look at the record first, and RESET clears it. -/
theorem faultedCoreHasNoStep : Obligations.FaultedCoreHasNoStep := fun s r target h =>
  ⟨step_faulted h, stepLoop_stop (by simp [h]) _, applyReset_fault s⟩

/-! ## The invariant -/

theorem faultOk_of_none {s : State} (h : s.fault = none) : faultOk s = true := by
  simp only [faultOk, h]

theorem faultOk_of_illegal {s : State} {op : Byte} (hd : descriptor op = none)
    (h : s.fault = some (.illegalOpcode op s.pc)) : faultOk s = true := by
  simp [faultOk, h, hd]

/-- Settles O11: a step keeps the parameters and the canonical form of memory, and records no fault or an opcode byte without
descriptor at PC. -/
theorem stepKeepsTheInvariant : Obligations.StepKeepsTheInvariant := by
  rintro s t ⟨hwf, hparams, -⟩ hstep
  have hkeeps := stepKeeps_of_step hstep
  refine ⟨hkeeps.wf hwf, by rw [hkeeps.params, hparams], ?fault⟩
  cases hkeeps.ends with
  | entry _ hfault _ => exact faultOk_of_none hfault
  | completed _ hfault _ _ => exact faultOk_of_none hfault
  | illegal op hd hpc hfault _ => exact faultOk_of_illegal hd (by rw [hfault, hpc])

/-- RESET needs of a state only canonical memory and parameters as R6 asks. -/
theorem invariant_applyReset {s : State} (hwf : Memory.wf s.mem = true) (hparams : s.params.wf = true) :
    Invariant (applyReset s) := by
  obtain ⟨n, he⟩ := applyReset_eq s
  rw [he]
  exact ⟨hwf, hparams, faultOk_of_none rfl⟩

theorem invariant_powerOn {p : Params} {m : Memory} (hp : p.wf = true) (hm : Memory.wf m = true) :
    Invariant (powerOn p m) :=
  invariant_applyReset hm hp

/-- Settles O13: an NMI request and the IRQ line are no part of the invariant, and RESET clears the fault record. -/
theorem environmentKeepsTheInvariant : Obligations.EnvironmentKeepsTheInvariant := by
  refine ⟨fun s hs => ⟨hs, fun _ => hs, ?reset⟩, fun p m => invariant_powerOn⟩
  case reset =>
    obtain ⟨hwf, hparams, -⟩ := hs
    exact invariant_applyReset hwf hparams

/-- Settles O12: the state after reset is power-on with the default parameters and nothing stored. -/
theorem invariantHoldsAtReset : Obligations.InvariantHoldsAtReset := by
  rw [Obligations.InvariantHoldsAtReset, reset_eq_powerOn]
  exact invariant_powerOn (by decide) Memory.wf_nil

/-- Settles O14: `applyReset_eq` gives every field. -/
theorem resetSequence : Obligations.ResetSequence := by
  intro s
  obtain ⟨n, he⟩ := applyReset_eq s
  rw [he]
  exact ⟨rfl, rfl, rfl, rfl, rfl, rfl, rfl, rfl, rfl, rfl, fun _ => rfl, rfl, rfl, rfl⟩

/-! ## The clock -/

/-- Settles O21: the three ends of a step, with the cycles of each. -/
theorem stepsCostTwoToSevenCycles : Obligations.StepsCostTwoToSevenCycles := by
  intro s t h
  cases (stepKeeps_of_step h).ends with
  | entry htaken hfault hclk => exact .inl ⟨htaken, hfault, hclk⟩
  | completed hnone hfault hleast hmost => exact .inr (.inl ⟨hnone, hfault, hleast, hmost⟩)
  | illegal op _ _ hfault hclk => exact .inr (.inr ⟨by simp [hfault], hclk⟩)

/-- A step that records no fault drives the clock forward, by no more than the largest step cost (R120, R293). -/
theorem StepKeeps.clock {s t : State} (h : StepKeeps s t) (hint : 0 < s.params.intCycles) :
    (t.fault = none → s.clk < t.clk) ∧ t.clk ≤ s.clk + max 7 s.params.intCycles := by
  cases h.ends with
  | entry _ _ hclk => exact ⟨fun _ => by omega, by omega⟩
  | completed _ _ hleast hmost => exact ⟨fun _ => by omega, by omega⟩
  | illegal op _ _ hfault hclk => exact ⟨fun hnone => by simp [hfault] at hnone, by omega⟩

/-- What R119 promises of the state `t` in which `step_to` leaves `s`: whole steps, each from a boundary below the target
without a fault; the target met, unless a fault is recorded; an overshoot below the largest step cost. -/
structure StopsAt (target : Nat) (s t : State) : Prop where
  steps     : ∃ n, Host.Core.run core n s = .next t ∧
    ∀ k < n, ∃ u, Host.Core.run core k s = .next u ∧ u.clk < target ∧ u.fault = none
  reached   : t.fault = none → target ≤ t.clk
  overshoot : s.clk < target → t.clk < target + max 7 s.params.intCycles

theorem run_succ_of_step {s u : State} (h : step s = .next u) (n : Nat) :
    Host.Core.run core (n + 1) s = Host.Core.run core n u := by
  have hcore : core.step s = .next u := h
  simp only [Host.Core.run, hcore]

/-- Where the loop does not step, it has stopped as promised. -/
theorem StopsAt.refl {target : Nat} {s : State} (h : ¬(s.clk < target ∧ s.fault = none)) : StopsAt target s s where
  steps := ⟨0, rfl, by simp⟩
  reached hfault := by by_contra hlt; exact h ⟨by omega, hfault⟩
  overshoot hlt := by omega

/-- One step from below the target, and then as promised. -/
theorem StopsAt.cons {target : Nat} {s u t : State} (hlt : s.clk < target) (hfault : s.fault = none)
    (hstep : step s = .next u) (hint : 0 < s.params.intCycles) (hstop : ¬(u.clk < target) → t = u)
    (h : StopsAt target u t) : StopsAt target s t where
  steps := by
    obtain ⟨n, hrun, hbefore⟩ := h.steps
    refine ⟨n + 1, by rw [run_succ_of_step hstep, hrun], fun k hk => ?_⟩
    match k with
    | 0 => exact ⟨s, rfl, hlt, hfault⟩
    | k + 1 =>
      rw [run_succ_of_step hstep]
      exact hbefore k (by omega)
  reached := h.reached
  overshoot _ := by
    have hkeeps := stepKeeps_of_step hstep
    obtain ⟨-, hmost⟩ := hkeeps.clock hint
    by_cases hu : u.clk < target
    · rw [← hkeeps.params]
      exact h.overshoot hu
    · rw [hstop hu]
      omega

/-- With a step of fuel for each cycle up to the target, the loop stops as promised: a step without fault adds at least one
cycle (R120). -/
theorem stopsAt_stepLoop (target : Nat) : ∀ (fuel : Nat) (s : State), 0 < s.params.intCycles →
    (s.fault = none → target ≤ s.clk + fuel) → StopsAt target s (stepLoop fuel target s) := by
  intro fuel
  induction fuel with
  | zero => exact fun s _ hfuel => .refl fun ⟨hlt, hfault⟩ => absurd (hfuel hfault) (by omega)
  | succ fuel ih =>
    intro s hint hfuel
    by_cases hgo : s.clk < target ∧ s.fault = none
    · obtain ⟨hlt, hfault⟩ := hgo
      obtain ⟨u, hstep⟩ := step_exists hfault
      have hkeeps := stepKeeps_of_step hstep
      obtain ⟨hforward, -⟩ := hkeeps.clock hint
      have hloop : stepLoop (fuel + 1) target s = stepLoop fuel target u := by
        rw [stepLoop, if_pos ⟨hlt, hfault⟩, hstep]
      have hu : u.fault = none → target ≤ u.clk + fuel := fun hnone => by
        have := hforward hnone
        have := hfuel hfault
        omega
      rw [hloop]
      exact .cons hlt hfault hstep hint (fun hge => stepLoop_stop (fun h => hge h.1) fuel)
        (ih u (hkeeps.params ▸ hint) hu)
    · rw [stepLoop_stop hgo]
      exact .refl hgo

/-- Settles O22: the fuel of `step_to` is one step for each cycle up to the target. -/
theorem stepToReachesItsTarget : Obligations.StepToReachesItsTarget := by
  intro s target hint
  have h : StopsAt target s (stepTo target s) := stopsAt_stepLoop target _ s hint fun _ => by omega
  refine ⟨h.steps, fun hstop => stepLoop_stop ?_ _, h.reached, h.overshoot⟩
  rintro ⟨hlt, hfault⟩
  obtain hmet | hne := hstop
  · omega
  · exact hne hfault

end Sys2Proof.Machine

/-! Memory, the bus and the resolver (20_memory.md, 40_addressing.md). -/

namespace Sys2Proof.Machine

/-! ## Canonical memories -/

/-- The first entry of a canonical memory, and what follows it. -/
theorem Memory.wfFrom_cons {k j : Nat} {v : Byte} {rest : Memory} (h : Memory.wfFrom k ((j, v) :: rest) = true) :
    k ≤ j ∧ j < 65536 ∧ v ≠ Memory.unlisted ∧ Memory.wfFrom (j + 1) rest = true := by
  simp only [Memory.wfFrom, Bool.and_eq_true, decide_eq_true_eq, bne_iff_ne] at h
  obtain ⟨⟨⟨hk, hj⟩, hv⟩, hrest⟩ := h
  exact ⟨hk, hj, hv, hrest⟩

/-- Below its first address a canonical memory lists nothing. -/
theorem Memory.read_of_wfFrom {k i : Nat} (hi : i < k) :
    ∀ {m : Memory}, Memory.wfFrom k m = true → Memory.read m i = Memory.unlisted
  | [], _ => rfl
  | (_, _) :: _, h => by
    obtain ⟨hkj, -, -, hrest⟩ := Memory.wfFrom_cons h
    rw [Memory.read, if_neg (by omega), Memory.read_of_wfFrom (by omega) hrest]

theorem Memory.read_cons_self (j : Nat) (v : Byte) (rest : Memory) : Memory.read ((j, v) :: rest) j = v := if_pos rfl

/-- A canonical memory that lists an address below all those of another does not read like it. -/
theorem Memory.read_ne_of_lt {j j' : Nat} {v : Byte} {rest n : Memory} (hv : v ≠ Memory.unlisted) (hlt : j < j')
    (hn : Memory.wfFrom j' n = true) : Memory.read ((j, v) :: rest) j ≠ Memory.read n j := by
  rw [Memory.read_cons_self, Memory.read_of_wfFrom hlt hn]
  exact hv

theorem Memory.eq_of_read {m : Memory} : ∀ {n : Memory} {k : Nat}, Memory.wfFrom k m = true →
    Memory.wfFrom k n = true → (∀ i < 65536, Memory.read m i = Memory.read n i) → m = n := by
  induction m with
  | nil =>
    intro n k _ hn hread
    match n with
    | [] => rfl
    | (j, w) :: rest =>
      obtain ⟨-, hj, hw, -⟩ := Memory.wfFrom_cons hn
      have := hread j hj
      rw [Memory.read_cons_self] at this
      exact absurd this.symm hw
  | cons c mrest ih =>
    obtain ⟨j, v⟩ := c
    intro n k hm hn hread
    obtain ⟨hkj, hj, hv, hmrest⟩ := Memory.wfFrom_cons hm
    match n with
    | [] => exact absurd (hread j hj) (by rw [Memory.read_cons_self]; exact hv)
    | (j', w) :: nrest =>
      obtain ⟨hkj', hj', hw, hnrest⟩ := Memory.wfFrom_cons hn
      obtain hlt | rfl | hgt := Nat.lt_trichotomy j j'
      case inl =>
        have hn' : Memory.wfFrom j' ((j', w) :: nrest) = true := by simp [Memory.wfFrom, hj', hw, hnrest]
        exact absurd (hread j hj) (Memory.read_ne_of_lt hv hlt hn')
      case inr.inr =>
        have hm' : Memory.wfFrom j ((j, v) :: mrest) = true := by simp [Memory.wfFrom, hj, hv, hmrest]
        exact absurd (hread j' hj').symm (Memory.read_ne_of_lt hw hgt hm')
      case inr.inl =>
        have hvw : v = w := by
          have := hread j hj
          rwa [Memory.read_cons_self, Memory.read_cons_self] at this
        have hrest : mrest = nrest := ih hmrest hnrest fun i hi => by
          by_cases hij : i ≤ j
          · rw [Memory.read_of_wfFrom (by omega) hmrest, Memory.read_of_wfFrom (by omega) hnrest]
          · have := hread i hi
            rwa [Memory.read, Memory.read, if_neg (by omega), if_neg (by omega)] at this
        rw [hvw, hrest]

/-- Settles O26: by induction on one of the lists, the entries being compared address by address. -/
theorem canonicalMemoriesThatReadAlikeAreEqual : Obligations.CanonicalMemoriesThatReadAlikeAreEqual :=
  fun _ _ hm hn => Memory.eq_of_read hm hn

/-! ## The reference bus -/

/-- Internal RAM keeps its bytes modulo 0x0800 (R52). -/
theorem region_ram {p : Params} {a : Word} (hbus : p.bus = .reference) (ha : a.toNat < 0x2000) :
    region p a = .cell (a.toNat % 0x0800) := by
  have hmask : (a &&& 0x07FF).toNat = a.toNat % 0x0800 := by
    rw [BitVec.toNat_and]
    exact Nat.and_two_pow_sub_one_eq_mod a.toNat 11
  simp only [region, hbus, ha, if_true, hmask]

/-- A byte of internal RAM is hit at its mirrors alone (R52). -/
theorem hits_ram {p : Params} {a : Word} (hbus : p.bus = .reference) (ha : a.toNat < 0x2000) (b : Word) :
    hits p a b = true ↔ b.toNat < 0x2000 ∧ b.toNat % 0x0800 = a.toNat % 0x0800 := by
  rw [hits_iff, region_ram hbus ha]
  constructor
  · rintro ⟨k, hk, hb⟩
    obtain rfl := Region.cell.inj hk
    by_cases hlow : b.toNat < 0x2000
    · rw [region_ram hbus hlow] at hb
      exact ⟨hlow, Region.cell.inj hb⟩
    · have := region_high_cell (by omega) hb
      omega
  · rintro ⟨hlow, hmirror⟩
    exact ⟨_, rfl, by rw [region_ram hbus hlow, hmirror]⟩

/-- Settles O27: what a write hits in internal RAM are the mirrors of its address. -/
theorem ramIsMirroredFourTimes : Obligations.RamIsMirroredFourTimes := by
  intro s a b v hbus ha
  simp only [memWrite_peek, hits_ram hbus ha b]

/-- A stub reads as its value and absorbs writes (R55, R60). -/
theorem stub_reads_and_absorbs {s : State} {a : Word} {w : Byte} (h : region s.params a = .stub w) (v : Byte) :
    (memRead a s).1 = w ∧ s.peek a = some w ∧ (memWrite a v s).mem = s.mem := by
  simp only [memRead_fst, State.busByte, State.peek, memWrite_mem, State.stored, h, and_self]

theorem region_unassigned {p : Params} {a : Word} (hbus : p.bus = .reference) (h1 : 0x4018 ≤ a.toNat)
    (h2 : a.toNat ≤ 0x401F) : region p a = .stub 0x00 := by
  simp only [region, hbus]
  rw [if_neg (by omega), if_neg (by omega), if_neg (by omega), if_pos (by omega)]

theorem region_ioPort {p : Params} {a : Word} (hbus : p.bus = .reference) (h1 : 0x4000 ≤ a.toNat)
    (h2 : a.toNat ≤ 0x4017) (hport : a ∈ p.ioPorts) : region p a = .stub p.ioStubValue := by
  simp only [region, hbus]
  rw [if_neg (by omega), if_neg (by omega), if_pos (by omega), if_pos (List.contains_iff_mem.mpr hport)]

/-- Settles O28: both kinds of address are stubs of the reference bus. -/
theorem stubAddressesReadOneValueAndIgnoreWrites : Obligations.StubAddressesReadOneValueAndIgnoreWrites :=
  fun _ _ v hbus => ⟨fun h1 h2 => stub_reads_and_absorbs (region_unassigned hbus h1 h2) v,
    fun h1 h2 hport => stub_reads_and_absorbs (region_ioPort hbus h1 h2 hport) v⟩

/-! ## Addresses as numbers -/

theorem word_add_one (a : Word) : a + 1 = BitVec.ofNat 16 (a.toNat + 1) := by
  rw [BitVec.ofNat_add, BitVec.ofNat_toNat, BitVec.setWidth_eq]
  rfl

theorem zext_eq_ofNat (z : Byte) : zext z = BitVec.ofNat 16 z.toNat := by
  rw [← zext_toNat, BitVec.ofNat_toNat, BitVec.setWidth_eq]

theorem zext_add (u v : Byte) : zext (u + v) = BitVec.ofNat 16 ((u.toNat + v.toNat) % 256) := by
  rw [zext_eq_ofNat, BitVec.toNat_add]

theorem zext_add_one (z : Byte) : zext (z + 1) = BitVec.ofNat 16 ((z.toNat + 1) % 256) := zext_add z 1

theorem join_eq_ofNat (h l : Byte) : join h l = BitVec.ofNat 16 (h.toNat * 256 + l.toNat) := rfl

/-- The next address within the page (R45). -/
theorem join_hi_lo_add_one (p : Word) :
    join (hi p) (lo p + 1) = BitVec.ofNat 16 (p.toNat / 256 * 256 + (p.toNat + 1) % 256) := by
  have hlow : (lo p + 1).toNat = (p.toNat + 1) % 256 := by
    rw [BitVec.toNat_add, lo_toNat]
    exact Nat.mod_add_mod p.toNat 256 1
  rw [join_eq_ofNat, hi_toNat, hlow]

theorem stackAddr_eq_ofNat (sp : Byte) : stackAddr sp = BitVec.ofNat 16 (0x0100 + sp.toNat) := rfl

/-- Settles O29: each is a pair of reads of readable bytes, at the addresses R43 to R45 give. -/
theorem sixteenBitReads : Obligations.SixteenBitReads := by
  intro s l h
  refine ⟨fun a hl hh => ?read16, fun z hl hh => ?read16Zp, fun p hl hh => ?read16Bug⟩
  case read16 =>
    rw [← word_add_one] at hh ⊢
    exact readPair_of_peek hl hh
  case read16Zp =>
    rw [← zext_add_one] at hh ⊢
    rw [← zext_eq_ofNat] at hl ⊢
    exact readPair_of_peek hl hh
  case read16Bug =>
    rw [← join_hi_lo_add_one] at hh ⊢
    exact readPair_of_peek hl hh

/-! ## The stack and the fetch after a write -/

theorem sub_one_add_one (v : Byte) : v - 1 + 1 = v := BitVec.sub_add_cancel v 1

/-- The byte a push has stored is at the slot that a pop names next. -/
theorem push_peek_top (v : Byte) (s : State) : (push v s).peek (stackAddr ((push v s).sp + 1)) = some v := by
  rw [push_sp, sub_one_add_one, push_peek, hits_stackAddr, decide_eq_true rfl, if_pos rfl]

theorem pop_push (v : Byte) (s : State) : pop (push v s) =
    (v, { push v s with sp := s.sp, accesses := (push v s).accesses ++ [.read (stackAddr s.sp) v] }) := by
  rw [pop_of_peek (push_peek_top v s), push_sp, sub_one_add_one]

/-- Settles O30: `push_peek` is the frame of the write, and `pop_push` the pop after it. -/
theorem popAfterPushReturnsTheByte : Obligations.PopAfterPushReturnsTheByte := by
  intro s v
  rw [pop_push, ← stackAddr_eq_ofNat]
  exact ⟨rfl, push_peek v s, push_accesses v s, rfl, rfl, rfl⟩

/-- Settles O31: the fetch answers what the bus answers at PC, which is the byte just stored. -/
theorem storeIsSeenByTheNextFetch : Obligations.StoreIsSeenByTheNextFetch := by
  intro s v a h
  have hpeek : (memWrite a v s).peek s.pc = some v := by rw [memWrite_peek, if_pos h]
  exact busByte_of_peek hpeek

/-! ## The resolver -/

/-- The page-cross report compares page numbers (R105). -/
theorem crosses_eq_decide (ea base : Word) : crosses ea base = decide (ea.toNat / 256 ≠ base.toNat / 256) := by
  rw [crosses, Bool.eq_iff_iff, bne_iff_ne, decide_eq_true_iff, Ne, ← BitVec.toNat_inj, hi_toNat, hi_toNat]

theorem indexed_eq (base : Word) (index : Byte) : indexed base index =
    .memLoc (BitVec.ofNat 16 (base.toNat + index.toNat))
      (decide ((base.toNat + index.toNat) % 65536 / 256 ≠ base.toNat / 256)) := by
  have hsum : base + zext index = BitVec.ofNat 16 (base.toNat + index.toNat) := by
    rw [BitVec.ofNat_add, ← zext_eq_ofNat, BitVec.ofNat_toNat, BitVec.setWidth_eq]
  rw [indexed, crosses_eq_decide, hsum, BitVec.toNat_ofNat]

/-- Settles O32: each mode is its equation of `resolve`, with its sum as a number. -/
theorem resolverLocationsWithoutPointer : Obligations.ResolverLocationsWithoutPointer := by
  intro s
  refine ⟨rfl, rfl, fun _ => rfl, fun z => ?zp, fun z => ?zpx, fun z => ?zpy, fun _ => rfl, fun a => ?abx, fun a => ?aby,
    fun o => ?rel⟩
  case zp => rw [resolve, zext_eq_ofNat]
  case zpx | zpy => rw [resolve, zext_add]
  case abx | aby => rw [resolve, indexed_eq]
  case rel => rw [resolve, add_sext, crosses_eq_decide]

/-- The bytes of a pointer in page 0, which is stored on both buses (R44, R59). -/
theorem read16Zp_eq_join (z : Byte) (s : State) : ∃ l h,
    s.peek (BitVec.ofNat 16 z.toNat) = some l ∧ s.peek (BitVec.ofNat 16 ((z.toNat + 1) % 256)) = some h ∧
      (read16Zp z s).1 = join h l := by
  obtain ⟨l, hl⟩ : ∃ l, s.peek (zext z) = some l := ⟨_, peek_zext s z⟩
  obtain ⟨h, hh⟩ : ∃ h, s.peek (zext (z + 1)) = some h := ⟨_, peek_zext s (z + 1)⟩
  exact ⟨l, h, by rw [← zext_eq_ofNat, hl], by rw [← zext_add_one, hh], congrArg Prod.fst (readPair_of_peek hl hh)⟩

/-- Settles O33: Indirect reads its pointer as `Read16Bug`, the other two as `Read16ZP` in stored bytes. -/
theorem resolverLocationsThroughPointer : Obligations.ResolverLocationsThroughPointer := by
  intro s
  refine ⟨fun p l h hl hh => ?ind, fun b => ?izx, fun z => ?izy⟩
  case ind =>
    rw [← join_hi_lo_add_one] at hh
    have hread : (read16Bug p s).1 = join h l := congrArg Prod.fst (readPair_of_peek hl hh)
    rw [resolve, hread]
  case izx =>
    obtain ⟨l, h, hl, hh, hread⟩ := read16Zp_eq_join (b + s.x) s
    rw [BitVec.toNat_add] at hl hh
    rw [Nat.mod_add_mod] at hh
    exact ⟨l, h, hl, hh, by rw [resolve, hread]⟩
  case izy =>
    obtain ⟨l, h, hl, hh, hread⟩ := read16Zp_eq_join z s
    have hpage : (join h l).toNat / 256 = h.toNat := by rw [← hi_toNat, hi_join]
    refine ⟨l, h, hl, hh, ?_⟩
    rw [resolve, hread, indexed_eq, hpage, join_toNat]

/-- Settles O34: `readPair_eq` gives the two reads of the pointer modes; the other modes give the state as it was. -/
theorem resolverChangesNothingElse : Obligations.ResolverChangesNothingElse := by
  intro o s
  cases o
  case ind p =>
    obtain ⟨n, hreads⟩ := readPair_eq p (join (hi p) (lo p + 1)) s
    exact ⟨_, n, hreads, _, _, by rw [join_hi_lo_add_one]⟩
  case izx b =>
    obtain ⟨n, hreads⟩ := readPair_eq (zext (b + s.x)) (zext (b + s.x + 1)) s
    exact ⟨_, n, hreads, _, _, by rw [zext_add, zext_add_one, BitVec.toNat_add, Nat.mod_add_mod]⟩
  case izy z =>
    obtain ⟨n, hreads⟩ := readPair_eq (zext z) (zext (z + 1)) s
    exact ⟨_, n, hreads, _, _, by rw [zext_eq_ofNat, zext_add_one]⟩
  all_goals exact ⟨[], s.deviceCount, by simp [resolve], rfl⟩

end Sys2Proof.Machine

/-! Interrupts and the stack instructions (60_exceptions.md R245 to R251, 46_branch_jump.md R200, R201,
47_stack_flag_system.md). -/

namespace Sys2Proof.Machine

/-! ## Interrupt entries -/

/-- An interrupt entry, whatever the NMI latch is and with the transactions recorded before it (R247). -/
theorem interruptEntry_taken {vec : Word} (h1 : 0x2000 ≤ vec.toNat) (h2 : 0x2000 ≤ (vec + 1).toNat) (n : Bool)
    (q : List BusAccess) (s : State) :
    InterruptTaken vec s.pc (s.p &&& 0xEF) q s (interruptEntry vec { s with nmiPending := n, accesses := q }) :=
  ((takeInterrupt_taken h1 h2 s.pc (s.p &&& 0xEF) { s with nmiPending := n, accesses := q }).addClk _).of_start

/-- Everything a step that takes an interrupt leaves: the entry through one of the two vectors (R245, R246). -/
theorem interruptStep_eq (s : State) :
    (s.nmiPending = true →
      interruptStep s.beginStep = some (interruptEntry nmiVector { s with nmiPending := false, accesses := [] })) ∧
    (s.nmiPending = false → s.irqLine = true → s.flag .i = false →
      interruptStep s.beginStep = some (interruptEntry irqVector { s with nmiPending := false, accesses := [] })) := by
  refine ⟨fun hn => ?nmi, fun hn hline hi => ?irq⟩
  case nmi =>
    have hn' : s.beginStep.nmiPending = true := hn
    rw [interruptStep, if_pos hn']
    rfl
  case irq =>
    have hn' : ¬(s.beginStep.nmiPending = true) := by simp [hn]
    have htaken : s.beginStep.irqTaken = true := by simp [State.irqTaken, hline, hi]
    rw [interruptStep, if_neg hn', if_pos htaken, ← hn]
    rfl

/-- Settles O16: the entry through the NMI vector is the step's answer. -/
theorem pendingNmiIsTaken : Obligations.PendingNmiIsTaken := by
  intro s hfault hnmi
  have hentry := (interruptStep_eq s).1 hnmi
  obtain ⟨hclk, -, -, -, hlatch, -⟩ := interruptStep_keeps hentry
  exact ⟨_, step_interrupt hfault hentry, interruptEntry_taken (by decide) (by decide) false [] s, hlatch, hclk⟩

/-- Settles O17: the entry through the IRQ vector is the step's answer. -/
theorem unmaskedIrqIsTaken : Obligations.UnmaskedIrqIsTaken := by
  intro s hfault hnmi hline hi
  have hentry := (interruptStep_eq s).2 hnmi hline hi
  obtain ⟨hclk, -, -, -, hlatch, -⟩ := interruptStep_keeps hentry
  exact ⟨_, step_interrupt hfault hentry, interruptEntry_taken (by decide) (by decide) false [] s, hlatch, hclk⟩

/-! ## Stack instructions complete -/

/-- An implied instruction answers its effect and its cycles, and completes (R92, R116). -/
theorem exec_implied_completed {i : Instr} {s u : State} (hk : i.op.kind = .implied) (h : impliedEffect i.op s = u) :
    exec i s = .next (u.addClk (cost i 0)) ∧ Completed i 0 s (u.addClk (cost i 0)) := by
  subst h
  exact ⟨exec_implied_effect hk s, (keeps_impliedEffect i.op s).completed i 0⟩

/-- Settles O38: the effects of TXS and NOP are an update of SP and nothing. -/
theorem txsAndNopChangeNoFlag : Obligations.TxsAndNopChangeNoFlag := by
  intro s
  obtain ⟨htxs, htxsDone⟩ := exec_implied_completed (i := .txs) (u := s.setSp s.x) rfl rfl
  obtain ⟨hnop, hnopDone⟩ := exec_implied_completed (i := .nop) (u := s) rfl rfl
  exact ⟨⟨_, htxs, rfl, rfl, rfl, fun _ => rfl, rfl, htxsDone.clk, htxsDone⟩,
    ⟨_, hnop, rfl, rfl, rfl, fun _ => rfl, rfl, hnopDone.clk, hnopDone⟩⟩

/-- Settles O54: both rows are a `push`. -/
theorem pushInstructionsStoreOneByte : Obligations.PushInstructionsStoreOneByte := by
  intro s r hr
  obtain ⟨hk, henc, hcost, heffect⟩ : r.1.op.kind = .implied ∧ encode r.1 = [r.2.1] ∧ cost r.1 0 = 3 ∧
      impliedEffect r.1.op s = push r.2.2 s := by
    revert r
    simp only [List.forall_mem_cons]
    exact ⟨⟨rfl, rfl, rfl, rfl⟩, ⟨rfl, rfl, rfl, rfl⟩, nofun⟩
  obtain ⟨hexec, hdone⟩ := exec_implied_completed hk heffect
  exact ⟨_, hexec, henc, rfl, rfl, push_peek r.2.2 s, rfl, by rw [hdone.clk, hcost], hdone⟩

/-- Settles O55: both are a pop of the stored byte above SP. -/
theorem pullInstructionsLoadOneByte : Obligations.PullInstructionsLoadOneByte := by
  intro s
  obtain ⟨v, hv, hpop⟩ := pop_eq s
  have haccesses : (pop s).2.accesses = s.accesses ++ [.read (stackAddr (s.sp + 1)) v] := by rw [hpop]
  have hplaEffect : impliedEffect .pla s = ((pop s).2.setA v).setZN v := by simp only [impliedEffect, hpop]
  have hplpEffect : impliedEffect .plp s = (pop s).2.setP v := by simp only [impliedEffect, hpop]
  obtain ⟨hpla, hplaDone⟩ := exec_implied_completed (i := .pla) rfl hplaEffect
  obtain ⟨hplp, hplpDone⟩ := exec_implied_completed (i := .plp) rfl hplpEffect
  have hp : ((((pop s).2.setA v).setZN v).addClk (cost .pla 0)).p = putZN s.p v := rfl
  obtain ⟨hzn, hflags⟩ := znFrom_and_flagsKept hp
  exact ⟨v, hv, ⟨_, hpla, rfl, rfl, hzn, hflags, fun _ => rfl, haccesses, hplaDone.clk, hplaDone⟩,
    ⟨_, hplp, rfl, rfl, rfl, fun _ => rfl, haccesses, hplpDone.clk, hplpDone⟩⟩

/-- Settles O52: RTS pops the two stored bytes above SP. -/
theorem rtsReturnsPastThePoppedAddress : Obligations.RtsReturnsPastThePoppedAddress := by
  intro s
  obtain ⟨l, hl⟩ : ∃ l, s.peek (stackAddr (s.sp + 1)) = some l := ⟨_, peek_stackAddr s _⟩
  obtain ⟨h, hh⟩ : ∃ h, s.peek (stackAddr (s.sp + 2)) = some h := ⟨_, peek_stackAddr s _⟩
  obtain ⟨hexec, hdone⟩ := exec_implied_completed (i := .rts) (s := s) rfl rfl
  simp only [impliedEffect, Instr.op, popWord_of_peek hl hh] at hexec hdone
  exact ⟨_, l, h, hexec, rfl, hl, hh, rfl, rfl, fun _ => rfl, rfl, hdone.clk, hdone⟩

/-- Settles O59: RTI pops the three stored bytes above SP. -/
theorem rtiPopsStatusAndPc : Obligations.RtiPopsStatusAndPc := by
  intro s
  obtain ⟨p, hp⟩ : ∃ p, s.peek (stackAddr (s.sp + 1)) = some p := ⟨_, peek_stackAddr s _⟩
  obtain ⟨l, hl⟩ : ∃ l, s.peek (stackAddr (s.sp + 2)) = some l := ⟨_, peek_stackAddr s _⟩
  obtain ⟨h, hh⟩ : ∃ h, s.peek (stackAddr (s.sp + 3)) = some h := ⟨_, peek_stackAddr s _⟩
  obtain ⟨hexec, hdone⟩ := exec_implied_completed (i := .rti) rfl (returnFromInterrupt_of_peek hp hl hh)
  exact ⟨_, p, l, h, hexec, rfl, hp, hl, hh, rfl, rfl, fun _ => rfl, rfl, hdone.clk, hdone⟩

/-- Settles O58: BRK is the shared interrupt sequence through the IRQ vector. -/
theorem brkTakesTheIrqVector : Obligations.BrkTakesTheIrqVector := by
  intro s
  obtain ⟨hexec, hdone⟩ := exec_implied_completed (i := .brk) (s := s) rfl rfl
  refine ⟨_, hexec, rfl, ?taken, hdone.clk, hdone⟩
  rw [← word_add_one]
  exact (takeInterrupt_taken (by decide) (by decide) (s.pc + 1) (s.p ||| 0x10) s).addClk _

theorem sp_of_regs {t : State} {a x y sp : Byte} {pc : Word} (h : t.regs = (a, x, y, sp, pc)) : t.sp = sp :=
  congrArg (·.2.2.2.1) h

/-- What PHP leaves (R214). -/
theorem exec_php {s t : State} (h : exec .php s = .next t) :
    t.sp = s.sp - 1 ∧ StoresOnly (stackAddr s.sp) s.p s t := by
  obtain ⟨t', hexec, -, hregs, -, hmem, -⟩ := pushInstructionsStoreOneByte s (.php, 0x08, s.p) (by simp)
  obtain rfl := Host.Outcome.next.inj (hexec.symm.trans h)
  exact ⟨sp_of_regs hregs, hmem⟩

/-- What PLP leaves (R215). -/
theorem exec_plp {s t : State} (h : exec .plp s = .next t) :
    t.sp = s.sp + 1 ∧ s.peek (stackAddr (s.sp + 1)) = some t.p := by
  obtain ⟨v, hv, -, t', hexec, -, hregs, hp, -⟩ := pullInstructionsLoadOneByte s
  obtain rfl := Host.Outcome.next.inj (hexec.symm.trans h)
  exact ⟨sp_of_regs hregs, by rw [hv, hp]⟩

theorem StoresOnly.same {sp v : Byte} {s t : State} (h : StoresOnly (stackAddr sp) v s t) :
    t.peek (stackAddr sp) = some v := by
  rw [h, hits_stackAddr, decide_eq_true rfl, if_pos rfl]

/-- Settles O56: each of the two works on the slot that the other has left SP at. -/
theorem statusByteRoundTripsThroughTheStack : Obligations.StatusByteRoundTripsThroughTheStack := by
  intro s t u
  refine ⟨fun hphp hplp => ?pushPop, fun hplp hphp => ?popPush⟩
  case pushPop =>
    obtain ⟨htsp, htmem⟩ := exec_php hphp
    obtain ⟨husp, hpopped⟩ := exec_plp hplp
    rw [htsp, sub_one_add_one] at husp hpopped
    exact ⟨Option.some.inj (hpopped.symm.trans htmem.same), husp⟩
  case popPush =>
    obtain ⟨htsp, hpopped⟩ := exec_plp hplp
    obtain ⟨husp, humem⟩ := exec_php hphp
    exact ⟨humem.same.trans hpopped.symm, by rw [husp, htsp]; exact BitVec.add_sub_cancel s.sp 1⟩

/-! ## Call and return -/

theorem pushWord_sp (w : Word) (s : State) : (pushWord w s).sp = s.sp - 2 := sub_two s.sp

theorem pushWord_accesses (w : Word) (s : State) : (pushWord w s).accesses =
    s.accesses ++ [.write (stackAddr s.sp) (hi w), .write (stackAddr (s.sp - 1)) (lo w)] := by
  simp [pushWord]

/-- The two bytes of a pushed word are in different slots, so either may be looked for first. -/
theorem pushWord_peek_hi_first (w : Word) (s : State) (b : Word) : (pushWord w s).peek b =
    if hits s.params (stackAddr s.sp) b then some (hi w)
    else if hits s.params (stackAddr (s.sp - 1)) b then some (lo w) else s.peek b := by
  have hne : s.sp ≠ s.sp - 1 := by bv_omega
  rw [pushWord_peek]
  by_cases hhi : hits s.params (stackAddr s.sp) b = true
  · rw [hits_stackAddr_excl hne hhi, if_pos hhi, if_neg Bool.false_ne_true, if_pos hhi]
  · rw [if_neg hhi, if_neg hhi]

/-- The answer of JSR (R200). -/
theorem exec_jsr (w : Word) (s : State) :
    exec (.jsr w) s = .next (((pushWord (s.pc - 1) s).setPc w).addClk (cost (.jsr w) 0)) := rfl

theorem cost_jsr (w : Word) : cost (.jsr w) 0 = 6 :=
  cost_of_row (i := .jsr w) (rfl : descriptor 0x20 = some ⟨.jsr, .abs, 6, false⟩) 0

/-- Settles O51: JSR is a `pushWord` of PC - 1 and a write of PC. -/
theorem jsrPushesTheReturnAddress : Obligations.JsrPushesTheReturnAddress := by
  intro s w
  have hdone : Completed (.jsr w) 0 s (((pushWord (s.pc - 1) s).setPc w).addClk (cost (.jsr w) 0)) :=
    ((keeps_pushWord (s.pc - 1) s).trans (keeps_setPc _ w)).completed _ 0
  refine ⟨_, exec_jsr w s, rfl, ?regs, rfl, fun b => ?memory, ?accesses, by rw [hdone.clk, cost_jsr], hdone⟩
  case regs =>
    rw [State.regs, addClk_sp, setPc_sp, pushWord_sp]
    rfl
  case memory => rw [addClk_peek, setPc_peek, pushWord_peek_hi_first]
  case accesses => rw [addClk_accesses, setPc_accesses, pushWord_accesses]

/-- Settles O53: the word that RTS pops is the one JSR pushed, and one past it is PC. -/
theorem rtsUndoesJsr : Obligations.RtsUndoesJsr := by
  intro s t u w hjsr hrts
  obtain ⟨t', hjsr', -, htregs, htp, hmem, -⟩ := jsrPushesTheReturnAddress s w
  obtain rfl := Host.Outcome.next.inj (hjsr'.symm.trans hjsr)
  obtain ⟨u', l, h, hrts', -, hl, hh, huregs, hup, -⟩ := rtsReturnsPastThePoppedAddress t'
  obtain rfl := Host.Outcome.next.inj (hrts'.symm.trans hrts)
  obtain ⟨rfl, rfl⟩ : lo (s.pc - 1) = l ∧ hi (s.pc - 1) = h := by
    have hne : s.sp ≠ s.sp - 1#8 := by bv_omega
    rw [sp_of_regs htregs, hmem] at hl hh
    rw [show s.sp - 2 + 1 = s.sp - 1 by bv_omega] at hl
    rw [show s.sp - 2 + 2 = s.sp by bv_omega] at hh
    exact ⟨by simpa [hne] using hl, by simpa using hh⟩
  obtain ⟨ha, hx, hy, hsp, -⟩ : t'.a = s.a ∧ t'.x = s.x ∧ t'.y = s.y ∧ t'.sp = s.sp - 2 ∧ t'.pc = w := by
    simpa [State.regs] using htregs
  have hpc : s.pc - 1 + 1 = s.pc := BitVec.sub_add_cancel s.pc 1
  have hspBack : s.sp - 2 + 2 = s.sp := BitVec.sub_add_cancel s.sp 2
  exact ⟨by rw [huregs, ha, hx, hy, hsp, join_hi_lo, hpc, hspBack]; rfl, hup.trans htp⟩

/-! ## Return from an interrupt -/

/-- RTI in the state an interrupt sequence leaves brings back what was pushed (R251). -/
theorem InterruptTaken.rti {vec ret : Word} {v : Byte} {l : List BusAccess} {s t u : State}
    (h : InterruptTaken vec ret v l s t) (hrti : exec .rti t = .next u) :
    u.regs = (s.a, s.x, s.y, s.sp, ret) ∧ u.p = v := by
  have hne1 : s.sp ≠ s.sp - 1#8 := by bv_omega
  have hne2 : s.sp ≠ s.sp - 2#8 := by bv_omega
  have hne3 : s.sp - 1#8 ≠ s.sp - 2#8 := by bv_omega
  obtain ⟨u', p, lw, hg, hexec, -, hp, hl, hh, hregs, hup, -⟩ := rtiPopsStatusAndPc t
  obtain rfl := Host.Outcome.next.inj (hexec.symm.trans hrti)
  obtain ⟨rfl, rfl, rfl⟩ : v = p ∧ lo ret = lw ∧ hi ret = hg := by
    rw [h.sp, h.memory] at hp hl hh
    rw [show s.sp - 3 + 1 = s.sp - 2 by bv_omega] at hp
    rw [show s.sp - 3 + 2 = s.sp - 1 by bv_omega] at hl
    rw [show s.sp - 3 + 3 = s.sp by bv_omega] at hh
    exact ⟨by simpa [hne2, hne3] using hp, by simpa [hne1] using hl, by simpa using hh⟩
  have hspBack : s.sp - 3 + 3 = s.sp := BitVec.sub_add_cancel s.sp 3
  exact ⟨by rw [hregs, h.a, h.x, h.y, h.sp, join_hi_lo, hspBack], hup⟩

/-- A step that takes an interrupt is an interrupt sequence that pushes PC and P with bit 4 clear (R247). -/
theorem interruptTaken_of_step {s t : State} (hfault : s.fault = none)
    (htaken : (interruptStep s.beginStep).isSome = true) (hstep : step s = .next t) :
    ∃ vec, InterruptTaken vec s.pc (s.p &&& 0xEF) [] s t := by
  obtain ⟨hn, -⟩ | ⟨hn, hline, hi, -⟩ | ⟨-, -, hnone⟩ := interruptStep_cases s.beginStep
  · obtain ⟨t', hstep', h, -⟩ := pendingNmiIsTaken s hfault hn
    obtain rfl := Host.Outcome.next.inj (hstep'.symm.trans hstep)
    exact ⟨_, h⟩
  · obtain ⟨t', hstep', h, -⟩ := unmaskedIrqIsTaken s hfault hn hline hi
    obtain rfl := Host.Outcome.next.inj (hstep'.symm.trans hstep)
    exact ⟨_, h⟩
  · simp [hnone] at htaken

/-- Settles O19: RTI pops what the entry pushed. -/
theorem rtiUndoesAnInterruptEntry : Obligations.RtiUndoesAnInterruptEntry := by
  intro s t u hfault htaken hstep hrti
  obtain ⟨vec, h⟩ := interruptTaken_of_step hfault htaken hstep
  exact h.rti hrti

/-- Settles O20: RTI pops what BRK pushed. -/
theorem rtiAfterBrkResumesPastThePaddingByte : Obligations.RtiAfterBrkResumesPastThePaddingByte := by
  intro s t u hbrk hrti
  obtain ⟨t', hbrk', -, h, -⟩ := brkTakesTheIrqVector s
  obtain rfl := Host.Outcome.next.inj (hbrk'.symm.trans hbrk)
  rw [← word_add_one] at h
  exact h.rti hrti

end Sys2Proof.Machine

/-! ADC's overflow and the D flag (43_arithmetic_compare.md R140, R147), and the masked IRQ line (60_exceptions.md R246). -/

namespace Sys2Proof.Machine

/-! ## ADC and SBC -/

/-- Settles O41: V is the overflow of the adder, which is that of the signed sum. -/
theorem adcOverflowIsSignedOverflow : Obligations.AdcOverflowIsSignedOverflow := by
  intro i s t hop hexec
  have hadds : AddsToA (operandByte i s) s (readNext i s) := addsToA_readNext (by rw [hop]; rfl)
  obtain rfl : readNext i s = t := Host.Outcome.next.inj ((exec_readNext (by rw [hop]; rfl) s).symm.trans hexec)
  have hcarry : (if s.flag .c then 1 else 0 : Int) = bitNat (s.flag .c) := by cases s.flag .c <;> rfl
  rw [hadds.overflow, hcarry]
  exact addC_overflow_iff _ _ _

/-! ## Updates that an instruction passes on -/

/-- An update of the state that instruction `i` neither looks at nor undoes: `PassedOn.exec` says what `i` answers
after it. -/
structure PassedOn (f : State → State) (i : Instr) : Prop where
  resolve : ∀ s, resolve i.operand (f s) = ((resolve i.operand s).1, f (resolve i.operand s).2)
  execute : ∀ l s t e, execute i.op l s = .done t e → execute i.op l (f s) = .done (f t) e
  addClk  : ∀ s n, (f s).addClk n = f (s.addClk n)

/-- What an instruction answers is what its operation leaves, and the clock: a contract violation, which would leave the
clock as it was, is raised by none. -/
theorem execute_of_exec {i : Instr} {s t : State} (h : exec i s = .next t) : ∃ u e,
    execute i.op (resolve i.operand s).1 (resolve i.operand s).2 = .done u e ∧ t = u.addClk (cost i e) := by
  have hperform := h
  rw [exec_eq, perform] at hperform
  cases hx : execute i.op (resolve i.operand s).1 (resolve i.operand s).2 with
  | done u e =>
    simp only [hx] at hperform
    exact ⟨u, e, rfl, (Host.Outcome.next.inj hperform).symm⟩
  | violation w =>
    simp only [hx] at hperform
    have hclk : t.clk = s.clk := by rw [← Host.Outcome.next.inj hperform, raise_clk, resolve_clk]
    obtain ⟨e, t', he, hexec, hdone, -⟩ := exec_next i s
    obtain rfl := Host.Outcome.next.inj (hexec.symm.trans h)
    have hcost := cost_bounds i he
    have := hdone.clk
    omega

theorem PassedOn.exec {f : State → State} {i : Instr} (hf : PassedOn f i) {s t : State} (h : exec i s = .next t) :
    exec i (f s) = .next (f t) := by
  obtain ⟨u, e, hu, rfl⟩ := execute_of_exec h
  rw [exec_eq, perform]
  simp only [hf.resolve, hf.execute _ _ _ _ hu, hf.addClk]

/-- An operation that loads passes an update on if its effect on the registers and flags does. -/
theorem withLoad_passedOn {f : State → State} (l : Loc) {g : Byte → State → State} {s t : State} {e : Nat}
    (hf : ∀ l, load l (f s) = (load l s).map fun r => (r.1, f r.2)) (hg : ∀ m u, g m (f u) = f (g m u))
    (h : (withLoad l s fun m u => .done (g m u) l.crossing) = .done t e) :
    (withLoad l (f s) fun m u => .done (g m u) l.crossing) = .done (f t) e := by
  simp only [withLoad, hf] at h ⊢
  cases hl : load l s with
  | ok r =>
    simp only [hl] at h ⊢
    cases h
    simp only [Except.map, hg]
  | error w => simp [hl] at h

/-! ## The D flag -/

theorem putFlag_comm (p : Byte) {f g : Flag} (b c : Bool) (h : f ≠ g) :
    putFlag (putFlag p f b) g c = putFlag (putFlag p g c) f b := by
  apply eq_of_flags
  intro k
  simp only [flagOf_putFlag]
  split_ifs with h1 h2
  · exact absurd (h2.symm.trans h1) h
  all_goals rfl

theorem putZN_putFlag (p v : Byte) {f : Flag} (b : Bool) (hz : f ≠ .z) (hn : f ≠ .n) :
    putZN (putFlag p f b) v = putFlag (putZN p v) f b := by
  rw [putZN, putFlag_comm _ _ _ hz, putFlag_comm _ _ _ hn, putZN]

/-- The adder does not read D, and writes other bits of P (R147). -/
theorem addToA_setFlag_d (m : Byte) (b : Bool) (s : State) :
    addToA m (s.setFlag .d b) = (addToA m s).setFlag .d b := by
  have hc : (s.setFlag .d b).flag .c = s.flag .c := by rw [setFlag_flag, if_neg (by decide)]
  have hp (q r : Byte) (c v : Bool) : putZN (putFlag (putFlag (putFlag q .d b) .c c) .v v) r =
      putFlag (putZN (putFlag (putFlag q .c c) .v v) r) .d b := by
    rw [putFlag_comm q b c (by decide), putFlag_comm _ b v (by decide), putZN_putFlag _ _ _ (by decide) (by decide)]
  simp only [addToA, hc, setFlag_a]
  simp only [State.setFlag, State.setZN, State.setA, hp]

theorem resolve_setFlag (o : Operand) (f : Flag) (b : Bool) (s : State) :
    resolve o (s.setFlag f b) = ((resolve o s).1, (resolve o s).2.setFlag f b) := by
  cases o <;> rfl

theorem load_setFlag (l : Loc) (f : Flag) (b : Bool) (s : State) :
    load l (s.setFlag f b) = (load l s).map fun r => (r.1, r.2.setFlag f b) := by
  cases l <;> rfl

/-- Settles O42: the two operations pass an update of D on, since the adder does. -/
theorem decimalFlagDoesNotAffectAdcOrSbc : Obligations.DecimalFlagDoesNotAffectAdcOrSbc := by
  intro i s t b hop hexec
  have hpass : PassedOn (fun s => s.setFlag .d b) i := by
    refine ⟨fun s => resolve_setFlag i.operand .d b s, fun l s t e h => ?execute, fun _ _ => rfl⟩
    case execute =>
      obtain hop | hop := hop <;> rw [hop] at h ⊢
      · exact withLoad_passedOn (f := fun s => s.setFlag .d b) l (load_setFlag · .d b s) (addToA_setFlag_d · b) h
      · exact withLoad_passedOn (f := fun s => s.setFlag .d b) l (load_setFlag · .d b s)
          (fun m => addToA_setFlag_d (m ^^^ 0xFF) b) h
  exact hpass.exec hexec

/-! ## The masked IRQ line -/

theorem resolve_driveIrq (o : Operand) (b : Bool) (s : State) :
    resolve o (driveIrq b s) = ((resolve o s).1, driveIrq b (resolve o s).2) := by
  cases o <;> rfl

theorem load_driveIrq (l : Loc) (b : Bool) (s : State) :
    load l (driveIrq b s) = (load l s).map fun r => (r.1, driveIrq b r.2) := by
  cases l <;> rfl

theorem readEffect_driveIrq (op : Op) (m : Byte) (b : Bool) (s : State) :
    readEffect op m (driveIrq b s) = driveIrq b (readEffect op m s) := by
  cases op <;> rfl

theorem modifyEffect_driveIrq (op : Op) (m : Byte) (b : Bool) (s : State) :
    modifyEffect op m (driveIrq b s) = ((modifyEffect op m s).1, driveIrq b (modifyEffect op m s).2) := by
  cases op <;> rfl

theorem impliedEffect_driveIrq (op : Op) (b : Bool) (s : State) :
    impliedEffect op (driveIrq b s) = driveIrq b (impliedEffect op s) := by
  cases op <;> rfl

theorem jumpEffect_driveIrq (op : Op) (a : Word) (b : Bool) (s : State) :
    jumpEffect op a (driveIrq b s) = driveIrq b (jumpEffect op a s) := by
  cases op <;> rfl

theorem storedRegister_driveIrq (op : Op) (b : Bool) (s : State) :
    storedRegister op (driveIrq b s) = storedRegister op s := by
  cases op <;> rfl

theorem memRead_driveIrq (a : Word) (b : Bool) (s : State) :
    memRead a (driveIrq b s) = ((memRead a s).1, driveIrq b (memRead a s).2) := rfl

theorem readModifyWrite_driveIrq {op : Op} {l : Loc} {s t : State} {e : Nat} (b : Bool)
    (h : readModifyWrite l s (modifyEffect op) = .done t e) :
    readModifyWrite l (driveIrq b s) (modifyEffect op) = .done (driveIrq b t) e := by
  cases l with
  | accLoc =>
    cases h
    simp only [readModifyWrite, withLoad, load, withStore_accLoc, driveIrq_a, modifyEffect_driveIrq]
    rfl
  | memLoc a c =>
    cases h
    simp only [readModifyWrite, withLoad, load, withStore_memLoc, memRead_driveIrq, modifyEffect_driveIrq]
    rfl
  | noLoc | immLoc _ | relLoc _ _ => cases h

theorem branch_driveIrq {f : Flag} {want : Bool} {l : Loc} {s t : State} {e : Nat} (b : Bool)
    (h : branch f want l s = .done t e) : branch f want l (driveIrq b s) = .done (driveIrq b t) e := by
  cases l with
  | relLoc w c =>
    have hflag : (driveIrq b s).flag f = s.flag f := rfl
    rw [branch] at h ⊢
    by_cases htaken : s.flag f = want
    · rw [if_pos htaken] at h
      rw [if_pos (hflag.trans htaken)]
      cases h
      rfl
    · rw [if_neg htaken] at h
      rw [if_neg (hflag ▸ htaken)]
      cases h
      rfl
  | noLoc | accLoc | immLoc _ | memLoc _ _ => cases h

theorem withTarget_driveIrq {op : Op} {l : Loc} {s t : State} {e : Nat} (b : Bool)
    (h : (withTarget l fun a => .done (jumpEffect op a s) l.crossing) = .done t e) :
    (withTarget l fun a => .done (jumpEffect op a (driveIrq b s)) l.crossing) = .done (driveIrq b t) e := by
  cases l with
  | memLoc a c =>
    cases h
    simp only [withTarget, jumpEffect_driveIrq]
  | noLoc | accLoc | immLoc _ | relLoc _ _ => cases h

/-- No operation looks at the IRQ line (R24). -/
theorem execute_driveIrq {op : Op} {l : Loc} {s t : State} {e : Nat} (b : Bool) (h : execute op l s = .done t e) :
    execute op l (driveIrq b s) = .done (driveIrq b t) e := by
  cases hk : op.kind
  case read =>
    rw [execute_read hk] at h ⊢
    exact withLoad_passedOn (f := driveIrq b) l (load_driveIrq · b s) (readEffect_driveIrq op · b) h
  case store =>
    rw [execute_store hk] at h ⊢
    rw [storedRegister_driveIrq]
    cases l <;> cases h <;> rfl
  case modify =>
    rw [execute_modify hk] at h ⊢
    exact readModifyWrite_driveIrq b h
  case branch =>
    rw [execute_branch hk] at h ⊢
    exact branch_driveIrq b h
  case jump =>
    rw [execute_target (.inl hk)] at h ⊢
    exact withTarget_driveIrq b h
  case call =>
    rw [execute_target (.inr hk)] at h ⊢
    exact withTarget_driveIrq b h
  case implied =>
    rw [execute_implied hk] at h ⊢
    cases h
    rw [impliedEffect_driveIrq]

theorem passedOn_driveIrq (b : Bool) (i : Instr) : PassedOn (driveIrq b) i :=
  ⟨resolve_driveIrq i.operand b, fun _ _ _ _ => execute_driveIrq b, fun _ _ => rfl⟩

theorem fetchN_driveIrq (b : Bool) (n : Nat) : ∀ s : State,
    fetchN n (driveIrq b s) = ((fetchN n s).1, driveIrq b (fetchN n s).2) := by
  induction n with
  | zero => exact fun _ => rfl
  | succ n ih =>
    intro s
    have h8 : fetch8 (driveIrq b s) = ((fetch8 s).1, driveIrq b (fetch8 s).2) := rfl
    simp only [fetchN, h8, ih]

/-- A fetch does not look at the IRQ line either. -/
theorem runInstruction_driveIrq {s t : State} (b : Bool) (h : runInstruction s = .next t) :
    runInstruction (driveIrq b s) = .next (driveIrq b t) := by
  cases hd : descriptor (s.busByte s.pc) with
  | some d =>
    obtain ⟨i, hdec, hfetch⟩ := fetchInstr_instr hd
    obtain ⟨j, hdec', hfetch'⟩ := fetchInstr_instr (s := driveIrq b s) hd
    rw [fetchN_driveIrq] at hdec' hfetch'
    obtain rfl : i = j := congrArg Prod.fst (Except.ok.inj (hdec.symm.trans hdec'))
    simp only [runInstruction, hfetch] at h
    simp only [runInstruction, hfetch']
    exact (passedOn_driveIrq b i).exec h
  | none =>
    have hd' : descriptor (fetch8 s).1 = none := hd
    have h8 : fetch8 (driveIrq b s) = ((fetch8 s).1, driveIrq b (fetch8 s).2) := rfl
    simp only [runInstruction, fetchInstr, hd'] at h
    simp only [runInstruction, fetchInstr, h8, hd']
    cases h
    rfl

theorem interruptEntry_driveIrq (vec : Word) (b : Bool) (s : State) :
    interruptEntry vec (driveIrq b s) = driveIrq b (interruptEntry vec s) := rfl

/-- Settles O18: with an NMI pending both steps are the NMI entry, and with I set neither takes an IRQ, so that both run the
same instruction. -/
theorem maskedIrqLineMakesNoDifference : Obligations.MaskedIrqLineMakesNoDifference := by
  intro s t b hmasked hstep
  have hfault : s.fault = none := fault_of_step hstep
  have hfault' : (driveIrq b s).fault = none := hfault
  by_cases hnmi : s.nmiPending = true
  case pos =>
    have hentry := (interruptStep_eq s).1 hnmi
    have hentry' := (interruptStep_eq (driveIrq b s)).1 hnmi
    obtain rfl := Host.Outcome.next.inj ((step_interrupt hfault hentry).symm.trans hstep)
    rw [step_interrupt hfault' hentry', ← interruptEntry_driveIrq]
    rfl
  case neg =>
    have hi : s.flag .i = true := hmasked.resolve_right hnmi
    have hnone : interruptStep s.beginStep = none := by simp [interruptStep, State.irqTaken, hnmi, hi]
    have hnone' : interruptStep (driveIrq b s).beginStep = none := by simp [interruptStep, State.irqTaken, hnmi, hi]
    rw [step_fetch hfault hnone] at hstep
    rw [step_fetch hfault' hnone']
    exact runInstruction_driveIrq b hstep

end Sys2Proof.Machine

/-! Which operation writes which register, flag and byte of memory (10_state.md R18, R26). -/

namespace Sys2Proof.Machine

/-! ## The answer of an instruction, by what its operation does with its operand -/

/-- What `exec` can answer, one case for each kind of operation (R115). -/
inductive Executes (i : Instr) (s : State) : State → Prop where
  | read (kind : i.op.kind = .read) : Executes i s (readNext i s)
  | store (kind : i.op.kind = .store) (a : Word) (v : Byte) (n : Nat) :
      Executes i s ((memWrite a v (resolve i.operand s).2).addClk n)
  | modify (kind : i.op.kind = .modify) (t : State) (modifies : ModifiesOperand i s t) : Executes i s t
  | branch (kind : i.op.kind = .branch) (pc : Word) (n : Nat) : Executes i s ((s.setPc pc).addClk n)
  | target (kind : i.op.kind = .jump ∨ i.op.kind = .call) (a : Word) (n : Nat) :
      Executes i s ((jumpEffect i.op a (resolve i.operand s).2).addClk n)
  | implied (kind : i.op.kind = .implied) (n : Nat) : Executes i s ((impliedEffect i.op s).addClk n)

theorem executes_of_exec {i : Instr} {s t : State} (h : exec i s = .next t) : Executes i s t := by
  have hnext {u : State} (hu : exec i s = .next u) : u = t := Host.Outcome.next.inj (hu.symm.trans h)
  cases hk : i.op.kind
  case read =>
    obtain rfl := hnext (exec_readNext hk s)
    exact .read hk
  case store =>
    obtain ⟨a, c, -, hexec⟩ := exec_store hk (execute_store hk) s
    obtain rfl := hnext hexec
    exact .store hk a _ _
  case modify =>
    obtain ⟨u, hexec, hu⟩ := exec_modifiesOperand hk s
    obtain rfl := hnext hexec
    exact .modify hk u hu
  case branch =>
    obtain ⟨o, -, hexec⟩ := exec_branch_effect hk s
    obtain rfl := hnext hexec
    split
    · exact .branch hk _ _
    · exact .branch hk s.pc _
  case jump =>
    obtain ⟨a, c, -, hexec⟩ := exec_target_effect (.inl hk) s
    obtain rfl := hnext hexec
    exact .target (.inl hk) a _
  case call =>
    obtain ⟨a, c, -, hexec⟩ := exec_target_effect (.inr hk) s
    obtain rfl := hnext hexec
    exact .target (.inr hk) a _
  case implied =>
    obtain rfl := hnext (exec_implied_effect hk s)
    exact .implied hk _

/-- The accumulator is the operand of read-modify-write operations alone (R93, R169). -/
theorem operand_ne_acc {i : Instr} (h : i.op.kind ≠ .modify) : i.operand ≠ .acc := by
  intro hacc
  have hfits := op_fits i
  rw [hacc] at hfits
  cases hk : i.op.kind <;> rw [hk] at hfits
  case modify => exact h hk
  all_goals cases hfits

/-! ## Registers -/

/-- The writers of each register in R26, for an operation with operand `o`. -/
structure WritesListed (op : Op) (o : Operand) (s t : State) : Prop where
  a  : t.a ≠ s.a → op ∈ [Op.lda, .pla, .txa, .tya, .adc, .sbc, .and, .ora, .eor] ∨
    (op ∈ [Op.asl, .lsr, .rol, .ror] ∧ o = .acc)
  x  : t.x ≠ s.x → op ∈ [Op.ldx, .tax, .tsx, .inx, .dex]
  y  : t.y ≠ s.y → op ∈ [Op.ldy, .tay, .iny, .dey]
  sp : t.sp ≠ s.sp → op ∈ [Op.pha, .php, .pla, .plp, .jsr, .rts, .brk, .rti, .txs]
  pc : t.pc ≠ s.pc → op ∈ [Op.bpl, .bmi, .bvc, .bvs, .bcc, .bcs, .bne, .beq, .jmp, .jsr, .rts, .rti, .brk]

section
variable {op : Op} {o : Operand} {s t : State}

theorem WritesListed.of_regs (h : t.regs = s.regs) : WritesListed op o s t := by
  obtain ⟨ha, hx, hy, hsp, hpc⟩ : t.a = s.a ∧ t.x = s.x ∧ t.y = s.y ∧ t.sp = s.sp ∧ t.pc = s.pc := by
    simpa [State.regs] using h
  exact ⟨absurd ha, absurd hx, absurd hy, absurd hsp, absurd hpc⟩

/-- Only the registers matter. -/
theorem WritesListed.congr {s' t' : State} (h : WritesListed op o s t) (hs : s'.regs = s.regs) (ht : t'.regs = t.regs) :
    WritesListed op o s' t' := by
  obtain ⟨ha, hx, hy, hsp, hpc⟩ : s'.a = s.a ∧ s'.x = s.x ∧ s'.y = s.y ∧ s'.sp = s.sp ∧ s'.pc = s.pc := by
    simpa [State.regs] using hs
  obtain ⟨ha', hx', hy', hsp', hpc'⟩ : t'.a = t.a ∧ t'.x = t.x ∧ t'.y = t.y ∧ t'.sp = t.sp ∧ t'.pc = t.pc := by
    simpa [State.regs] using ht
  exact ⟨ha ▸ ha' ▸ h.a, hx ▸ hx' ▸ h.x, hy ▸ hy' ▸ h.y, hsp ▸ hsp' ▸ h.sp, hpc ▸ hpc' ▸ h.pc⟩

/-! The effect of each operation, as an update of named registers, against its lines of the table. -/

theorem writesListed_readEffect (op : Op) (v : Byte) : WritesListed op o s (readEffect op v s) := by
  cases op <;> constructor <;> simp [readEffect, addToA, setCompare, setBitTest]

theorem writesListed_impliedEffect (op : Op) : WritesListed op o s (impliedEffect op s) := by
  cases op <;> constructor <;> simp [impliedEffect]

theorem op_of_target (h : op.kind = .jump ∨ op.kind = .call) : op = .jmp ∨ op = .jsr := by
  revert h
  cases op <;> simp [Op.kind]

theorem writesListed_jumpEffect (h : op.kind = .jump ∨ op.kind = .call) (a : Word) :
    WritesListed op o s (jumpEffect op a s) := by
  obtain rfl | rfl := op_of_target h
  · constructor <;> simp [jumpEffect]
  · constructor <;> simp [jumpEffect, pushWord]

theorem writesListed_branch (h : op.kind = .branch) (pc : Word) : WritesListed op o s (s.setPc pc) := by
  have hop : op ∈ [Op.bpl, .bmi, .bvc, .bvs, .bcc, .bcs, .bne, .beq, .jmp, .jsr, .rts, .rti, .brk] := by
    revert h
    cases op <;> simp [Op.kind]
  exact ⟨absurd rfl, absurd rfl, absurd rfl, absurd rfl, fun _ => hop⟩

theorem op_of_modify (h : op.kind = .modify) : op ∈ [Op.asl, .lsr, .rol, .ror] ∨ op = .inc ∨ op = .dec := by
  revert h
  cases op <;> simp [Op.kind]

end

/-- A read-modify-write operation writes no register but the accumulator, as the operand of a shift (R165 to R169). -/
theorem ModifiesOperand.writes {i : Instr} {s t : State} (h : ModifiesOperand i s t) (hk : i.op.kind = .modify) :
    WritesListed i.op i.operand s t := by
  by_cases hacc : i.operand = .acc
  · have hshift := (op_of_modify hk).resolve_right fun hop => operand_ne_acc_of_incDec hop hacc
    obtain ⟨-, hx, hy, hsp, hpc⟩ : t.a = t.a ∧ t.x = s.x ∧ t.y = s.y ∧ t.sp = s.sp ∧ t.pc = s.pc := by
      simpa [State.regs] using h.regs
    exact ⟨fun _ => .inr ⟨hshift, hacc⟩, absurd hx, absurd hy, absurd hsp, absurd hpc⟩
  · exact .of_regs (h.regs_of_ne_acc hk hacc)

theorem Executes.writes {i : Instr} {s t : State} (h : Executes i s t) : WritesListed i.op i.operand s t := by
  have hresolve : (resolve i.operand s).2.regs = s.regs := by simp [State.regs]
  cases h with
  | read hk => exact (writesListed_readEffect i.op (operandByte i s)).congr rfl (readNext_regs_and_p i s).1
  | store hk a v n => exact .of_regs hresolve
  | modify hk t ht => exact ht.writes hk
  | branch hk pc n => exact (writesListed_branch (s := s) hk pc).congr rfl rfl
  | target hk a n => exact (writesListed_jumpEffect hk a).congr hresolve.symm rfl
  | implied hk n => exact (writesListed_impliedEffect (s := s) i.op).congr rfl rfl

/-- Settles O23: the table, and what every instruction leaves alone. -/
theorem registerWriters : Obligations.RegisterWriters := by
  intro i s t hexec
  obtain ⟨e, t', -, hexec', hdone, -⟩ := exec_next i s
  obtain rfl := Host.Outcome.next.inj (hexec'.symm.trans hexec)
  have h := (executes_of_exec hexec).writes
  exact ⟨h.a, h.x, h.y, h.sp, h.pc, hdone.nmiPending, hdone.fault, hdone.irqLine, hdone.params⟩

/-! ## Flags -/

/-- The flags an operation writes (R18, "set by"): `Executes.flagsKept` ties it to `exec`. -/
def flagsWritten : Op → List Flag
  | .adc | .sbc => [.c, .z, .v, .n]
  | .cmp | .cpx | .cpy | .asl | .lsr | .rol | .ror => [.c, .z, .n]
  | .bit => [.z, .v, .n]
  | .lda | .ldx | .ldy | .and | .ora | .eor | .inc | .dec | .tax | .tay | .txa | .tya | .tsx | .inx | .iny | .dex | .dey
  | .pla => [.z, .n]
  | .clc | .sec => [.c]
  | .cli | .sei | .brk => [.i]
  | .cld | .sed => [.d]
  | .clv => [.v]
  | .plp | .rti => [.c, .z, .i, .d, .b4, .b5, .v, .n]
  | .sta | .stx | .sty | .bpl | .bmi | .bvc | .bvs | .bcc | .bcs | .bne | .beq | .jmp | .jsr | .rts | .txs | .nop | .pha
  | .php => []

theorem flagsKept_readEffect {op : Op} (hk : op.kind = .read) (v : Byte) (s : State) :
    FlagsKept (flagsWritten op) s (readEffect op v s) := by
  cases op
  case adc => exact (addsToA_addToA v s).kept
  case sbc => exact (addsToA_addToA (v ^^^ 0xFF) s).kept
  case cmp => exact flagsKept_setCompare s.a v s
  case cpx => exact flagsKept_setCompare s.x v s
  case cpy => exact flagsKept_setCompare s.y v s
  case bit => exact flagsKept_setBitTest v s
  case lda | ldx | ldy => exact (znFrom_and_flagsKept rfl).2
  case and | ora | eor => exact (znFrom_and_flagsKept rfl).2
  all_goals cases hk

theorem flagsKept_impliedEffect (op : Op) (s : State) : FlagsKept (flagsWritten op) s (impliedEffect op s) := by
  cases op
  case tax | tay | txa | tya | tsx | inx | iny | dex | dey | pla => exact (znFrom_and_flagsKept rfl).2
  case clc | sec | cli | sei | clv | cld | sed => exact (flagsKept_setFlag s _ _).congr rfl
  case brk => exact (flagsKept_setFlag s .i true).congr (takeInterrupt_p irqVector (s.pc + 1) (s.p ||| 0x10) s)
  case plp | rti =>
    intro f hf
    cases f <;> simp [flagsWritten] at hf
  all_goals exact flagsKept_of_p rfl

theorem jumpEffect_p (op : Op) (a : Word) (s : State) : (jumpEffect op a s).p = s.p := by
  cases op <;> rfl

theorem ModifiesOperand.flagsKept {i : Instr} {s t : State} (h : ModifiesOperand i s t) (hk : i.op.kind = .modify) :
    FlagsKept (flagsWritten i.op) s t := by
  obtain hop | hop := op_of_modify hk
  · obtain ⟨kind, hshift⟩ := modifyEffect_of_shift i.op hop
    have hflags : flagsWritten i.op = [.c, .z, .n] := by
      revert hop
      cases i.op <;> simp [flagsWritten]
    rw [hflags]
    exact h.flagsKept_of_shift hshift
  · have hflags : flagsWritten i.op = [.z, .n] := by obtain hop | hop := hop <;> rw [hop] <;> rfl
    rw [hflags]
    exact (znFrom_and_flagsKept (h.p.trans (by rw [modifiedP_of_incDec hop]))).2

/-- No instruction changes a flag but those its operation writes. -/
theorem Executes.flagsKept {i : Instr} {s t : State} (h : Executes i s t) : FlagsKept (flagsWritten i.op) s t := by
  cases h with
  | read hk => exact (flagsKept_readEffect hk (operandByte i s) s).congr (readNext_regs_and_p i s).2
  | store hk a v n => exact flagsKept_of_p (resolve_p i.operand s)
  | modify hk t ht => exact ht.flagsKept hk
  | branch hk pc n => exact flagsKept_of_p rfl
  | target hk a n => exact flagsKept_of_p (by rw [addClk_p, jumpEffect_p, resolve_p])
  | implied hk n => exact (flagsKept_impliedEffect i.op s).congr (addClk_p _ _)

/-- Settles O24: the flag that has changed is one that the operation writes. -/
theorem flagWriters : Obligations.FlagWriters := by
  intro i s t hexec
  have hwritten {f : Flag} (hf : t.flag f ≠ s.flag f) : f ∈ flagsWritten i.op := by
    by_contra hnot
    exact hf ((executes_of_exec hexec).flagsKept f hnot)
  refine ⟨fun h => ?c, fun h => ?zn, fun h => ?i, fun h => ?d, fun h => ?v, fun h => ?b45⟩
  case c | i | d | v =>
    have := hwritten h
    revert this
    cases i.op <;> simp [flagsWritten]
  case zn | b45 =>
    have := h.imp hwritten hwritten
    revert this
    cases i.op <;> simp [flagsWritten]

/-! ## Memory -/

/-- The pushes among the implied operations, BRK's included, write memory (R210, R226). -/
theorem memoryKept_impliedEffect {op : Op} (h : op ∉ [Op.pha, .php, .brk]) (s : State) :
    MemoryKept s (impliedEffect op s) := by
  intro b
  cases op
  case pha | php | brk => simp at h
  all_goals simp [impliedEffect]

/-- Settles O25: the other operations keep every readable byte, and a shift of the accumulator does. -/
theorem memoryWriters : Obligations.MemoryWriters := by
  intro i s t b hexec hne
  cases executes_of_exec hexec with
  | read hk => exact absurd (memoryKept_readNext i s b) hne
  | store hk a v n =>
    refine ⟨?_, operand_ne_acc (by simp [hk])⟩
    revert hk
    cases i.op <;> simp [Op.kind]
  | modify hk t ht =>
    refine ⟨?_, fun hacc => hne ?_⟩
    · revert hk
      cases i.op <;> simp [Op.kind]
    · have hreplaces := ht.replaces
      rw [operandLoc, hacc] at hreplaces
      exact hreplaces.2 b
  | branch hk pc n => exact absurd rfl hne
  | target hk a n =>
    obtain hop | hop := op_of_target hk
    · rw [hop] at hne
      exact absurd (resolve_peek i.operand s b) hne
    · exact ⟨by simp [hop], operand_ne_acc (by simp [hop, Op.kind])⟩
  | implied hk n =>
    refine ⟨?_, operand_ne_acc (by simp [hk])⟩
    by_contra hop
    refine hne (memoryKept_impliedEffect (fun hpush => hop ?_) s b)
    revert hpush
    cases i.op <;> simp

end Sys2Proof.Machine
